-- ==== Sys2Proof/Word.lean ====
section
/-! DEFINITION. The words of the block: 32-bit registers, bytes, tokens, node indices, offsets (00_scope.md R7, R8). -/

namespace Sys2Proof

/-- A byte of an output stream, a symbol value, or one byte of the window's memories (R7: SYM_W = 8). -/
abbrev Byte := BitVec 8

/-- A register, a memory word of the window, a command word (R7: DATA_W = FREQ_W = CNT_W = 32). -/
abbrev Word := BitVec 32

/-- One element of BIT_IN (R7: TOKEN_W = 3). -/
abbrev Token := BitVec 3

/-- A node index (R7: IDX_W = 9). -/
abbrev NodeIdx := BitVec 9

/-- A byte offset in the host window (R7: ADDR_W = 15). -/
abbrev Offset := BitVec 15

/-- A code: its bits in root-to-leaf order, `false` for 0 and `true` for 1 (R10). -/
abbrev Code := List Bool

end Sys2Proof
end

