-- ==== Sys2Proof/Syntax.lean ====
section
/-! DEFINITION. The instructions: the commands a host writes to CMD and the tokens of BIT_IN (00_scope.md R2,
30_encoding.md R73), one constructor per row of spec/opcode_table.json. -/

namespace Sys2Proof

/-- One constructor per row of the opcode table (log 1). -/
inductive Instr where
  /-- NOP, command word 0x00000000 (R95). -/
  | nop
  /-- CLEAR, command word 0x00000001 (R96). -/
  | clear
  /-- BUILD, command word 0x00000002 (R109). -/
  | build
  /-- DERIVE, command word 0x00000003 (R123). -/
  | derive
  /-- SERIALIZE, command word 0x00000004 (R130). -/
  | serialize
  /-- DECODE with LIM = 0, command word 0x00000005 (R139). -/
  | decode
  /-- DECODE with LIM = 1, command word 0x00000015 (R139). -/
  | decodeLim
  /-- ILLEGAL, the row of OP 0x6 and 0x7, any upper bits (R77, R105); `w` is the command word. -/
  | illegalOp6 (w : Word)
  /-- ILLEGAL, the row of OP 0x8 to 0xF, any upper bits (R77, R105); `w` is the command word. -/
  | illegalOp8 (w : Word)
  /-- ILLEGAL, the row of OP 0x0 to 0x5 with a reserved bit set (R77, R105); `w` is the command word. -/
  | illegalReserved (w : Word)
  /-- The token of bit value 0 (R80). -/
  | bit0
  /-- The token of bit value 1 (R80). -/
  | bit1
  /-- The invalid token with D = 0b10 (R80). -/
  | bad2
  /-- The invalid token with D = 0b11 (R80). -/
  | bad3
  /-- The end-of-stream token; its D bits are ignored (R80). -/
  | eos (d : BitVec 2)
  deriving DecidableEq, Repr

end Sys2Proof
end

