-- ==== Sys2Proof/WellFormed.lean ====
section
/-! DEFINITION. Which terms of Instr stand for a word of their own opcode-table row: an ILLEGAL constructor carries
a command word, and the word must belong to that row (30_encoding.md R76, R77). -/

namespace Sys2Proof

/-- The word has OP 0x6 or 0x7 (the first ILLEGAL row). -/
def isOp6Word (w : Word) : Bool := w.extractLsb' 1 3 == 3#3

/-- The word has OP 0x8 to 0xF (the second ILLEGAL row). -/
def isOp8Word (w : Word) : Bool := w.getLsbD 3

/-- The word has OP 0x0 to 0x4 and one of bits 31:4 set, or OP 0x5 and one of bits 31:5 set (the third ILLEGAL row). -/
def isReservedWord (w : Word) : Bool :=
  let op := w.extractLsb' 0 4
  (decide (op.toNat ≤ 4) && (w.extractLsb' 4 28 != 0#28)) || (op == 5#4 && (w.extractLsb' 5 27 != 0#27))

/-- Every constructor without a word is well-formed; an ILLEGAL constructor is when its word is of its row. -/
def Instr.wellFormed : Instr → Bool
  | .illegalOp6 w => isOp6Word w
  | .illegalOp8 w => isOp8Word w
  | .illegalReserved w => isReservedWord w
  | .nop => true
  | .clear => true
  | .build => true
  | .derive => true
  | .serialize => true
  | .decode => true
  | .decodeLim => true
  | .bit0 => true
  | .bit1 => true
  | .bad2 => true
  | .bad3 => true
  | .eos _ => true

end Sys2Proof
end

