-- ==== Sys2Proof/Decode.lean ====
section
/-! DEFINITION. The two decoders of 30_encoding.md, total on all 2^32 command words (R76) and all eight tokens (R81),
the encoder written from the same tables (R74, R75, R80), and the opcode table's view of a word. -/

namespace Sys2Proof

/-- The ILLEGAL row a command word belongs to, for a word that is none of the seven legal ones (R77). -/
def illegalRow (w : Word) : Instr :=
  if isOp8Word w then .illegalOp8 w
  else if isOp6Word w then .illegalOp6 w
  else .illegalReserved w

/-- `decode_cmd` of R76. -/
def decodeCmd (w : Word) : Instr :=
  let op := w.extractLsb' 0 4
  if op = 5#4 ∧ w.extractLsb' 5 27 = 0#27 then
    if w.getLsbD 4 then .decodeLim else .decode
  else if op.toNat ≤ 4 ∧ w.extractLsb' 4 28 = 0#28 then
    match op.toNat with
    | 0 => .nop
    | 1 => .clear
    | 2 => .build
    | 3 => .derive
    | _ => .serialize
  else illegalRow w

/-- `decode_tok` of R81. -/
def decodeTok (t : Token) : Instr :=
  if t.getLsbD 2 then .eos (t.extractLsb' 0 2)
  else if t.extractLsb' 0 2 = 0#2 then .bit0
  else if t.extractLsb' 0 2 = 1#2 then .bit1
  else if t.extractLsb' 0 2 = 2#2 then .bad2
  else .bad3

/-- The two encoded formats a decoder of this block reads (R73): a CMD32 word or a TOKEN3 element. -/
inductive Encoded where
  /-- A command word (R74). -/
  | cmd (w : Word)
  /-- An element of BIT_IN (R80). -/
  | tok (t : Token)
  deriving DecidableEq, Repr

/-- The decoder of either format. -/
def decodeEncoded : Encoded → Instr
  | .cmd w => decodeCmd w
  | .tok t => decodeTok t

/-- The encoded form of an instruction, from the tables of R75 and R80. -/
def encode : Instr → Encoded
  | .nop => .cmd 0x00000000#32
  | .clear => .cmd 0x00000001#32
  | .build => .cmd 0x00000002#32
  | .derive => .cmd 0x00000003#32
  | .serialize => .cmd 0x00000004#32
  | .decode => .cmd 0x00000005#32
  | .decodeLim => .cmd 0x00000015#32
  | .illegalOp6 w => .cmd w
  | .illegalOp8 w => .cmd w
  | .illegalReserved w => .cmd w
  | .bit0 => .tok 0b000#3
  | .bit1 => .tok 0b001#3
  | .bad2 => .tok 0b010#3
  | .bad3 => .tok 0b011#3
  | .eos d => .tok (1#1 ++ d)

/-- What an opcode-table word of `nbits` bits and value `w` is (log 21). Up to 3 bits it is a token. In one byte, 0 to 5
are tokens; 6 and 7 are the low byte of the first ILLEGAL row, whose fixed bits fill one byte. Otherwise it is a command
word, the bits above `nbits` zero. -/
def tableWord (nbits w : Nat) : Option Encoded :=
  if (nbits ≤ 3 ∧ w < 8) ∨ (nbits ≤ 8 ∧ w < 6) then some (.tok (BitVec.ofNat 3 w))
  else if w < 2 ^ 32 then some (.cmd (BitVec.ofNat 32 w))
  else none

/-- The instruction this decoder reads from an opcode-table word. -/
def decodeTableWord (nbits w : Nat) : Option Instr :=
  (tableWord nbits w).map decodeEncoded

end Sys2Proof
end

