-- ==== Sys2Proof/Config.lean ====
section
/-! DEFINITION. What the spec leaves open: the free values (no body, so no proof can see them) and the OPEN
parameters of 92_eei_decisions.md. -/

namespace Sys2Proof

/-- FREQ[s] after the power-on reset number `epoch`: "A model draws each word freely" (R188, 93 I1; log 3). -/
opaque Config.powerOnFreq : (epoch : Nat) → (s : Byte) → Word

/-- What the draw number `n` gives a host read of a NODE or CODE word that holds no valid data: "A model draws
that value afresh at each read" (R57, R39, R41, 93 I2, I3; log 5). -/
opaque Config.invalidRead : (n : Nat) → Word

/-- Whether a CLEAR aborted by a soft reset had already zeroed FREQ[s], at draw number `n`: "each FREQ[s] is drawn
from {its old value, 0}" (R103, 93 I4; log 6). -/
opaque Config.abortedClearZeroed : (n : Nat) → (s : Byte) → Bool

/-- MMIO_BASE, OPEN (R50, D26; log 14): the platform address of window offset 0. -/
opaque Config.mmioBase : Nat

/-- IRQ_ROUTE, OPEN (R167, D26; log 14): the level the platform's interrupt input sees for a level of IRQ. -/
opaque Config.irqRoute : Bool → Bool

/-- HOST_LANE_ORDER, OPEN (R60, D27; log 14): how the bus bridge shows a block word in host memory. -/
opaque Config.hostLaneOrder : Word → Word

end Sys2Proof
end

