-- ==== Sys2Proof/Machine/State.lean ====
section
/-! DEFINITION. The state of the block as plain data (10_state.md), the agents around it (00_scope.md R6), the reasons a
step can stop, and the state after power-on reset (70_reset_and_hazards.md R187, R188). -/

namespace Sys2Proof.Machine

/-- Why the machine has no further step. -/
inductive Fault where
  /-- Raised by `idleTurn` alone: no turn is left, a DECODE waits for a token, and no agent has a step (R194, 93 I10
  and I11: "stuck"). Safe: the spec says the system has no step there. -/
  | stuck
  deriving DecidableEq, Repr

/-- Why an instruction has no meaning. -/
inductive Refusal where
  /-- Raised by an arm of `exec` whose instruction has no meaning yet; no arm does. Safe: nothing can be proved of it. -/
  | notModelled (mnemonic : String)
  deriving DecidableEq, Repr

/-- The causes of R162. -/
inductive Cause where
  /-- Cause 0: a command word that is none of the seven legal words. -/
  | illegal
  /-- Cause 1: BUILD with no symbol present. -/
  | empty
  /-- Cause 2: BUILD with a total over 2^32 - 1. -/
  | overflow
  /-- Cause 3: DERIVE or DECODE with TREE_VALID = 0. -/
  | noTree
  /-- Cause 4: SERIALIZE with CODE_VALID = 0. -/
  | noCode
  /-- Cause 5: a token BAD2 or BAD3. -/
  | framing
  /-- Cause 6: bit 1 on a single tree, or a NIL child. -/
  | corrupt
  /-- Cause 7: a bad host access. -/
  | badacc
  deriving DecidableEq, Repr

/-- DMODE, the decoder's sub-state (R42). -/
inductive DecMode where
  | run
  | drain
  deriving DecidableEq, Repr

/-- DEC_FLAGS (R35). -/
structure DecFlags where
  /-- Bit 4, LIM. -/
  lim : Bool
  /-- Bit 3, DRAINED. -/
  drained : Bool
  /-- Bit 2, UNDERRUN. -/
  underrun : Bool
  /-- Bit 1, LIMIT_HIT. -/
  limitHit : Bool
  /-- Bit 0, PARTIAL. -/
  partialCode : Bool
  deriving DecidableEq, Repr

/-- DEC_FLAGS = 0. -/
def DecFlags.zero : DecFlags :=
  { lim := false, drained := false, underrun := false, limitHit := false, partialCode := false }

/-- A host access to a byte offset of the window (R50, R52): only size 4 is legal. -/
inductive Access where
  | read (off : Offset) (size : Nat)
  | write (off : Offset) (size : Nat) (value : Word)
  deriving DecidableEq, Repr

/-- A bus master: the accesses it has still to perform, in order, and the values its reads returned, oldest first. The
head of `todo` may be stalled (R192). -/
structure Master where
  todo : List Access
  got : List Word
  deriving DecidableEq, Repr

/-- Who takes a step (R6, R186). -/
inductive Agent where
  /-- The command engine. -/
  | engine
  /-- Bus master number `m`. -/
  | host (m : Nat)
  /-- The bit source. -/
  | source
  /-- The consumer of SYM_OUT. -/
  | symSink
  /-- The consumer of TBL_OUT. -/
  | tblSink
  /-- The platform's power-on reset input. -/
  | power
  deriving DecidableEq, Repr

/-- The bytes of the window's memories at their offsets: addresses strictly rising, no entry equal to what an unlisted
address reads as (`Memory.wf`). -/
abbrev Memory := List Host.Cell

/-- Everything the spec gives the machine, and the model's own fields after it. -/
structure State where
  /-- CTRL.IE_ERR (R21). -/
  ieErr : Bool
  /-- CTRL.IE_DONE (R21). -/
  ieDone : Bool
  /-- STATUS.DEC_ACTIVE (R22). -/
  decActive : Bool
  /-- STATUS.SINGLE (R22). -/
  single : Bool
  /-- STATUS.CODE_VALID (R22). -/
  codeValid : Bool
  /-- STATUS.TREE_VALID (R22). -/
  treeValid : Bool
  /-- CMD (R23). -/
  cmd : Word
  /-- ERR, bit c for cause number c (R24). -/
  err : BitVec 8
  /-- ERR_FIRST.CODE (R25). -/
  errFirst : BitVec 4
  /-- ERR_ARG (R26). -/
  errArg : Word
  /-- INT_PEND.ERR (R27). -/
  intErr : Bool
  /-- INT_PEND.DONE (R27). -/
  intDone : Bool
  /-- NSYM (R28). -/
  nsym : BitVec 9
  /-- NNODE (R29). -/
  nnode : BitVec 9
  /-- ROOT (R30). -/
  root : NodeIdx
  /-- ROOT_FREQ (R31). -/
  rootFreq : Word
  /-- MAXLEN (R32). -/
  maxlen : BitVec 8
  /-- DEC_COUNT (R33). -/
  decCount : Word
  /-- DEC_BITS (R34). -/
  decBits : Word
  /-- DEC_FLAGS (R35). -/
  decFlags : DecFlags
  /-- DEC_PTR (R36). -/
  decPtr : NodeIdx
  /-- PEND, the command issued but not complete (R42). STATUS.BUSY is `State.busy`. -/
  pend : Option Word
  /-- DMODE (R42). -/
  dmode : DecMode
  /-- FREQ, NODE and CODE (R37, R38, R40). -/
  mem : Memory
  /-- BIT_IN, oldest first (R43). -/
  bitIn : List Token
  /-- SYM_OUT, oldest first (R43). -/
  symOut : List Byte
  /-- TBL_OUT, oldest first (R43). -/
  tblOut : List Byte
  /-- The model's own: the symbols whose FREQ word still holds its power-on value (R188; log 3). -/
  freqUnwritten : List Byte
  /-- The model's own: how many power-on resets came before this one (log 3). -/
  epoch : Nat
  /-- The model's own: how many free values reads and aborted CLEARs have drawn (log 5, 6). -/
  draws : Nat
  /-- The bus masters (R63, R176; log 10). -/
  masters : List Master
  /-- The tokens the bit source has still to append (R67). -/
  source : List Token
  /-- Which agents move next, first first (R63; log 8, 9). -/
  turns : List Agent
  deriving DecidableEq, Repr

/-- The 256 symbol values in ascending order (R7: NSYMS = 256). -/
def allSymbols : List Byte := (List.range 256).map (BitVec.ofNat 8)

/-- The machine right after power-on reset: registers as R187, memories and streams as R188 (FREQ drawn: log 3), and
nobody outside with anything to do (log 2). -/
def State.reset : State where
  ieErr := false
  ieDone := false
  decActive := false
  single := false
  codeValid := false
  treeValid := false
  cmd := 0#32
  err := 0#8
  errFirst := 0#4
  errArg := 0#32
  intErr := false
  intDone := false
  nsym := 0#9
  nnode := 0#9
  root := 0#9
  rootFreq := 0#32
  maxlen := 0#8
  decCount := 0#32
  decBits := 0#32
  decFlags := DecFlags.zero
  decPtr := 0#9
  pend := none
  dmode := .run
  mem := []
  bitIn := []
  symOut := []
  tblOut := []
  freqUnwritten := allSymbols
  epoch := 0
  draws := 0
  masters := []
  source := []
  turns := []

end Sys2Proof.Machine
end

