-- ==== Sys2Proof/Machine/Ops.lean ====
section
/-! DEFINITION. The named operations: bytes and words of the memories, raising a cause (R161), completion (R104), the
acknowledging writes beside it (R100, R101), reset (R103, R186) and the output streams (R13). -/

namespace Sys2Proof.Machine

/-! ### The memories -/

/-- What a byte of the memories that no entry lists reads as (log 4). -/
def Memory.unlisted : Byte := 0#8

/-- The byte at an offset. -/
def Memory.get : Memory → Nat → Byte
  | [], _ => Memory.unlisted
  | c :: m, a => if c.1 = a then c.2 else Memory.get m a

/-- Put a cell in its place, or take its address out when it holds what an unlisted address reads as. -/
def Memory.set : Memory → Nat → Byte → Memory
  | [], a, b => if b = Memory.unlisted then [] else [(a, b)]
  | c :: m, a, b =>
    if c.1 < a then c :: Memory.set m a b
    else if c.1 = a then (if b = Memory.unlisted then m else (a, b) :: m)
    else if b = Memory.unlisted then c :: m else (a, b) :: c :: m

/-- The addresses rise strictly and every one is at least `lo`, and no entry holds what an unlisted address reads as. -/
def Memory.wfFrom : Nat → Memory → Bool
  | _, [] => true
  | lo, c :: m => decide (lo ≤ c.1) && decide (c.2 ≠ Memory.unlisted) && Memory.wfFrom (c.1 + 1) m

/-- The canonical form. -/
def Memory.wf (m : Memory) : Bool := Memory.wfFrom 0 m

/-- The word at an offset; the byte at the offset itself is the least significant (log 7). -/
def Memory.getWord (m : Memory) (a : Nat) : Word :=
  m.get (a + 3) ++ m.get (a + 2) ++ m.get (a + 1) ++ m.get a

/-- Store a word at an offset. -/
def Memory.setWord (m : Memory) (a : Nat) (v : Word) : Memory :=
  (((m.set a (v.extractLsb' 0 8)).set (a + 1) (v.extractLsb' 8 8)).set (a + 2) (v.extractLsb' 16 8)).set (a + 3)
    (v.extractLsb' 24 8)

/-- Make every byte from `lo` up to, not including, `hi` zero. -/
def Memory.zeroRange (m : Memory) (lo hi : Nat) : Memory :=
  m.filter (fun c => decide (c.1 < lo) || decide (hi ≤ c.1))

/-- Store words one after another from an offset up. -/
def Memory.setWords (m : Memory) (a : Nat) : List Word → Memory
  | [] => m
  | v :: vs => Memory.setWords (m.setWord a v) (a + 4) vs

/-- FREQ[s] at 0x400 + 4s (R37). -/
def freqAddr (s : Byte) : Nat := 0x400 + 4 * s.toNat

/-- The FREQ word of NODE[i] at 0x2000 + 8i; its LINK word is 4 above (R38). -/
def nodeAddr (i : Nat) : Nat := 0x2000 + 8 * i

/-- CODE[s] at 0x4000 + 64s; word w is 4w above (R40). -/
def codeAddr (s : Byte) : Nat := 0x4000 + 64 * s.toNat

/-! ### FREQ -/

/-- FREQ[s]: the value drawn at power-on until something writes it (R188). -/
def State.freq (s : State) (sym : Byte) : Word :=
  if s.freqUnwritten.contains sym then Config.powerOnFreq s.epoch sym else s.mem.getWord (freqAddr sym)

/-- FREQ[s] <- v (R97). -/
def State.setFreq (s : State) (sym : Byte) (v : Word) : State :=
  { s with mem := s.mem.setWord (freqAddr sym) v, freqUnwritten := s.freqUnwritten.filter (fun x => x != sym) }

/-- FREQ[s] <- 0 for every s (R96). -/
def State.zeroFreq (s : State) : State :=
  { s with mem := s.mem.zeroRange 0x400 0x800, freqUnwritten := [] }

/-! ### Completion, raising a cause, acknowledging -/

/-- STATUS.BUSY: 1 exactly when PEND is not none (R42). -/
def State.busy (s : State) : Bool := s.pend.isSome

/-- The command word in progress (the pseudocode's PEND as a word); 0 where there is none, which no command rule
meets (log 20). -/
def State.pendWord (s : State) : Word := s.pend.getD 0#32

/-- `Complete()` of R104. STATUS.BUSY falls with PEND. -/
def State.complete (s : State) : State :=
  { s with pend := none, decActive := false, intDone := true }

/-- The cause numbers of R162. -/
def Cause.number : Cause → Nat
  | .illegal => 0
  | .empty => 1
  | .overflow => 2
  | .noTree => 3
  | .noCode => 4
  | .framing => 5
  | .corrupt => 6
  | .badacc => 7

/-- The ERR bit of a cause (R24). -/
def Cause.bit (c : Cause) : BitVec 8 := 1#8 <<< c.number

/-- `raise E(arg)` of R161, the block's one way to take an exception. Control does not move (R170). -/
def State.raise (s : State) (c : Cause) (arg : Word) : State :=
  { s with
    errFirst := if s.err = 0#8 then BitVec.ofNat 4 (c.number + 1) else s.errFirst
    errArg := if s.err = 0#8 then arg else s.errArg
    err := s.err ||| c.bit
    intErr := true }

/-- `raise E(arg); Complete()`: how a command that fails ends (R104). -/
def State.fail (s : State) (c : Cause) (arg : Word) : State := (s.raise c arg).complete

/-- A write of `v` to ERR: W1C, and the capture re-arms when ERR comes back to 0 (R100, R163). -/
def State.writeErr (s : State) (v : Word) : State :=
  let e := s.err &&& ~~~(v.extractLsb' 0 8)
  { s with
    err := e
    errFirst := if e = 0#8 then 0#4 else s.errFirst
    errArg := if e = 0#8 then 0#32 else s.errArg }

/-- A write of `v` to INT_PEND: W1C (R101). -/
def State.writeIntPend (s : State) (v : Word) : State :=
  { s with intDone := s.intDone && !v.getLsbD 0, intErr := s.intErr && !v.getLsbD 1 }

/-! ### Reset -/

/-- Every register at its reset value; memories, streams, the model's own fields and the outside agents as they were
(R186, R189). PEND is a register of this kind too: the command in progress ends without `Complete()`. -/
def State.resetRegisters (s : State) : State :=
  { State.reset with
    mem := s.mem
    bitIn := s.bitIn
    symOut := s.symOut
    tblOut := s.tblOut
    freqUnwritten := s.freqUnwritten
    epoch := s.epoch
    draws := s.draws
    masters := s.masters
    source := s.source
    turns := s.turns }

/-- What a CLEAR aborted by a soft reset leaves in FREQ: each word its old value or 0, as drawn (R103, R189; log 6). -/
def State.abortClear (s : State) : State :=
  let t := allSymbols.foldl
    (fun t sym => if Config.abortedClearZeroed s.draws sym then t.setFreq sym 0#32 else t) s
  { t with draws := s.draws + 1 }

/-- A soft reset (R103). -/
def State.softReset (s : State) : State :=
  if s.pend = some 0x00000001#32 then s.abortClear.resetRegisters else s.resetRegisters

/-- The platform's power-on reset: registers as R187, memories and streams as R188, FREQ drawn anew. What is outside the
block stays (log 23). -/
def State.powerOn (s : State) : State :=
  { State.reset with
    epoch := s.epoch + 1
    draws := s.draws
    masters := s.masters
    source := s.source
    turns := s.turns }

/-! ### Output -/

/-- `Emit(TBL_OUT, b)` for each byte in order (R13). -/
def State.emitTbl (s : State) (bs : List Byte) : State := { s with tblOut := s.tblOut ++ bs }

end Sys2Proof.Machine
end

