-- ==== Sys2Proof/Machine/Operands.lean ====
section
/-! DEFINITION. The operands of the commands (R79): the fields of a NODE entry (R38), the words of a CODE entry (R40) and
the present symbols (R15). -/

namespace Sys2Proof.Machine

/-- NIL, the index that means "no child" (R15). -/
def nilIdx : NodeIdx := 0x1FF#9

/-- A NODE entry's fields (R38). -/
structure Node where
  freq : Word
  leaf : Bool
  sym : Byte
  right : NodeIdx
  left : NodeIdx
  deriving DecidableEq, Repr

/-- The LINK word of a NODE entry: LEAF, five reserved zeros, SYM, RIGHT, LEFT (R38). -/
def Node.link (nd : Node) : Word :=
  ((BitVec.ofBool nd.leaf).zeroExtend 32 <<< 31) ||| (nd.sym.zeroExtend 32 <<< 18) ||| (nd.right.zeroExtend 32 <<< 9) |||
    nd.left.zeroExtend 32

/-- LINK bit 31. -/
def linkLeaf (w : Word) : Bool := w.getLsbD 31

/-- LINK bits 30:26, reserved. -/
def linkReserved (w : Word) : BitVec 5 := w.extractLsb' 26 5

/-- LINK bits 25:18. -/
def linkSym (w : Word) : Byte := w.extractLsb' 18 8

/-- LINK bits 17:9. -/
def linkRight (w : Word) : NodeIdx := w.extractLsb' 9 9

/-- LINK bits 8:0. -/
def linkLeft (w : Word) : NodeIdx := w.extractLsb' 0 9

/-- Store NODE[i]. -/
def Memory.setNode (m : Memory) (i : Nat) (nd : Node) : Memory :=
  (m.setWord (nodeAddr i) nd.freq).setWord (nodeAddr i + 4) nd.link

/-- Store NODE[i], NODE[i+1], … in order. -/
def Memory.setNodes (m : Memory) (i : Nat) : List Node → Memory
  | [] => m
  | nd :: nds => Memory.setNodes (m.setNode i nd) (i + 1) nds

/-- NODE[i].FREQ. -/
def State.nodeFreq (s : State) (i : NodeIdx) : Word := s.mem.getWord (nodeAddr i.toNat)

/-- NODE[i].LINK. -/
def State.nodeLink (s : State) (i : NodeIdx) : Word := s.mem.getWord (nodeAddr i.toNat + 4)

/-- NODE[i].LEAF. -/
def State.isLeaf (s : State) (i : NodeIdx) : Bool := linkLeaf (s.nodeLink i)

/-- NODE[i].SYM. -/
def State.nodeSym (s : State) (i : NodeIdx) : Byte := linkSym (s.nodeLink i)

/-- NODE[i].LEFT. -/
def State.left (s : State) (i : NodeIdx) : NodeIdx := linkLeft (s.nodeLink i)

/-- NODE[i].RIGHT. -/
def State.right (s : State) (i : NodeIdx) : NodeIdx := linkRight (s.nodeLink i)

/-- The child a bit descends to: 1 the right, 0 the left (R144). -/
def State.child (s : State) (i : NodeIdx) (bit : Bool) : NodeIdx := if bit then s.right i else s.left i

/-- The present symbols, ascending (R109, R15). -/
def State.presentSymbols (s : State) : List Byte := allSymbols.filter (fun sym => s.freq sym != 0#32)

/-- CODE[s].LEN (R40). -/
def State.codeLen (s : State) (sym : Byte) : BitVec 8 := (s.mem.getWord (codeAddr sym)).extractLsb' 0 8

/-- Bit k of the code of s: bit 31 - (k mod 32) of BITS[k div 32] (R40). -/
def State.codeBit (s : State) (sym : Byte) (k : Nat) : Bool :=
  (s.mem.getWord (codeAddr sym + 4 + 4 * (k / 32))).getLsbD (31 - k % 32)

/-- The code of s as its bits. -/
def State.code (s : State) (sym : Byte) : Code := (List.range (s.codeLen sym).toNat).map (s.codeBit sym)

/-- BITS[w] of a code: bit 31 - j holds code bit 32w + j, and bits past the length are 0 (R40). -/
def packBits (c : Code) (w : Nat) : Word :=
  BitVec.ofFnLE (fun i : Fin 32 => c.getD (32 * w + (31 - i.val)) false)

/-- The words 0 to 8 of a CODE entry that holds the code c (R125, `store`). -/
def codeWords (c : Code) : List Word :=
  (BitVec.ofNat 8 c.length).zeroExtend 32 :: (List.range 8).map (packBits c)

/-- `store(s, c)` of R125. -/
def Memory.storeCode (m : Memory) (sym : Byte) (c : Code) : Memory := m.setWords (codeAddr sym) (codeWords c)

/-- `clear_codes()` of R124. -/
def Memory.clearCodes (m : Memory) : Memory := m.zeroRange 0x4000 0x8000

end Sys2Proof.Machine
end

