-- ==== Sys2Proof/Machine/CodeTable.lean ====
section
/-! DEFINITION. DERIVE and SERIALIZE (42_code_table.md R123 to R133). -/

namespace Sys2Proof.Machine

/-- `walk(i, p)` of R125: the leaves below node i with their paths. `fuel` bounds the depth: a tree has at most 256
levels (R7: MAX_CODE_LEN; log 15). -/
def State.walk (s : State) : (fuel : Nat) → NodeIdx → Code → List (Byte × Code)
  | 0, _, _ => []
  | fuel + 1, i, p =>
    if s.isLeaf i then [(s.nodeSym i, p)]
    else s.walk fuel (s.left i) (p ++ [false]) ++ s.walk fuel (s.right i) (p ++ [true])

/-- The codes DERIVE assigns: "0" for a single tree (R126), the paths otherwise (R125). -/
def State.assignedCodes (s : State) : List (Byte × Code) :=
  if s.single then [(s.nodeSym 0#9, [false])] else s.walk 256 s.root []

/-- Clear every entry, then store the codes (R124, R125). -/
def State.storeCodes (s : State) : State :=
  { s with mem := s.assignedCodes.foldl (fun m p => m.storeCode p.1 p.2) s.mem.clearCodes }

/-- The greatest CODE[s].LEN over all s (R32, R123). -/
def State.longestCode (s : State) : BitVec 8 :=
  BitVec.ofNat 8 (allSymbols.foldl (fun m sym => max m (s.codeLen sym).toNat) 0)

/-- What DERIVE leaves (R123, R128). -/
def State.deriveCodes (s : State) : State :=
  if s.treeValid then
    { s.storeCodes with maxlen := s.storeCodes.longestCode, codeValid := true }.complete
  else s.fail .noTree s.pendWord

/-- DERIVE (R123). -/
def execDerive (s : State) : Host.Outcome State Fault Refusal := .next s.deriveCodes

/-- The decimal digits of v, most significant first, before the digits already there. `fuel` bounds their number. -/
def decDigits : (fuel v : Nat) → List Byte → List Byte
  | 0, _, ds => ds
  | fuel + 1, v, ds =>
    if v < 10 then BitVec.ofNat 8 (0x30 + v) :: ds
    else decDigits fuel (v / 10) (BitVec.ofNat 8 (0x30 + v % 10) :: ds)

/-- `emit_dec(v)` of R132 for a 32-bit value: 1 to 10 digits. -/
def emitDec (v : Word) : List Byte := decDigits 10 v.toNat []

/-- The frequency of the leaf of a symbol: NODE[j].FREQ where NODE[j].LEAF = 1 and NODE[j].SYM = s (R130, R133; 0
where no node below NNODE is such a leaf, which no valid tree meets: log 16). -/
def State.leafFreq (s : State) (sym : Byte) : Word :=
  match ((List.range s.nnode.toNat).map (BitVec.ofNat 9)).find? (fun j => s.isLeaf j && s.nodeSym j == sym) with
  | some j => s.nodeFreq j
  | none => 0#32

/-- One character of a code field: 0x30 + the bit (R131). -/
def bitChar (b : Bool) : Byte := if b then 0x31#8 else 0x30#8

/-- The line of a symbol that has a code (R131). -/
def State.tableLine (s : State) (sym : Byte) : List Byte :=
  emitDec (sym.zeroExtend 32) ++ [0x20#8] ++ emitDec (s.leafFreq sym) ++ [0x20#8] ++ (s.code sym).map bitChar ++ [0x0A#8]

/-- The text of the table: the lines in ascending symbol order (R130, R133). -/
def State.tableText (s : State) : List Byte :=
  (allSymbols.filter (fun sym => s.codeLen sym != 0#8)).flatMap s.tableLine

/-- What SERIALIZE leaves (R130). -/
def State.serializeTable (s : State) : State :=
  if s.codeValid then (s.emitTbl s.tableText).complete else s.fail .noCode s.pendWord

/-- SERIALIZE (R130). -/
def execSerialize (s : State) : Host.Outcome State Fault Refusal := .next s.serializeTable

end Sys2Proof.Machine
end

