-- ==== Sys2Proof/Machine/Decoder.lean ====
section
/-! DEFINITION. DECODE and the tokens of BIT_IN (43_decoder.md R139 to R149). A token's meaning acts on the state whose
BIT_IN has already lost the token: taking it is `engineTurn`'s part of the token step (R141). -/

namespace Sys2Proof.Machine

/-- `DECODE_start` of R139. -/
def State.decodeStart (s : State) (lim : Bool) : State :=
  if s.treeValid then
    { s with
      decActive := true
      decPtr := s.root
      decCount := 0#32
      decBits := 0#32
      decFlags := { DecFlags.zero with lim := lim }
      dmode := .run }
  else s.fail .noTree s.pendWord

/-- The limit is ROOT_FREQ, with LIM = 1 only (R140): this count reaches it. -/
def State.atLimit (s : State) (count : Word) : Bool := s.decFlags.lim && count == s.rootFreq

/-- `emit_leaf()` of R141. -/
def State.emitLeaf (s : State) : State :=
  let hit := s.atLimit (s.decCount + 1#32)
  { s with
    symOut := s.symOut ++ [s.nodeSym s.decPtr]
    decCount := s.decCount + 1#32
    decPtr := s.root
    decFlags := { s.decFlags with limitHit := s.decFlags.limitHit || hit }
    dmode := if hit then .drain else s.dmode }

/-- DEC_BITS <- DEC_BITS + 1, modulo 2^32 (R151). -/
def State.countBit (s : State) : State := { s with decBits := s.decBits + 1#32 }

/-- The descent of R144: to the child, or CORRUPT where the child is NIL (R152). -/
def State.descend (s : State) (v : Bool) : State :=
  if s.child s.decPtr v = nilIdx then s.fail .corrupt s.decBits
  else { s.countBit with decPtr := s.child s.decPtr v }

/-- `multi_bit(v)` of R144. -/
def State.multiBit (s : State) (v : Bool) : State :=
  if s.isLeaf s.decPtr then
    if s.emitLeaf.dmode = .drain then s.emitLeaf.countBit else s.emitLeaf.descend v
  else s.descend v

/-- `single_bit(v)` of R146 (bit 0) and R147 (bit 1). -/
def State.singleBit (s : State) (v : Bool) : State :=
  if v then s.fail .corrupt s.decBits else s.countBit.emitLeaf

/-- `drain_bit()` of R145. -/
def State.drainBit (s : State) : State :=
  { s.countBit with decFlags := { s.decFlags with drained := true } }

/-- The BIT(v) case of R141. -/
def State.bitToken (s : State) (v : Bool) : State :=
  if s.dmode = .drain then s.drainBit
  else if s.single then s.singleBit v
  else s.multiBit v

/-- The first part of `end_of_stream()` of R142: the flush of a leaf, or PARTIAL for a pointer inside the tree. -/
def State.flush (s : State) : State :=
  if s.dmode = .run ∧ s.single = false then
    if s.isLeaf s.decPtr then s.emitLeaf
    else if s.decPtr ≠ s.root then { s with decFlags := { s.decFlags with partialCode := true } }
    else s
  else s

/-- The rest of `end_of_stream()` of R142: UNDERRUN, the pointer to ROOT, completion. -/
def State.closeStream (s : State) : State :=
  { s with
    decFlags := { s.decFlags with underrun := s.decFlags.underrun || (s.decFlags.lim && decide (s.decCount < s.rootFreq)) }
    decPtr := s.root }.complete

/-- DECODE with LIM = 0, start step (R139). -/
def execDecode (s : State) : Host.Outcome State Fault Refusal := .next (s.decodeStart false)

/-- DECODE with LIM = 1, start step (R139). -/
def execDecodeLim (s : State) : Host.Outcome State Fault Refusal := .next (s.decodeStart true)

/-- Token BIT0 (R141, R144 to R146). -/
def execBit0 (s : State) : Host.Outcome State Fault Refusal := .next (s.bitToken false)

/-- Token BIT1 (R141, R144, R145, R147). -/
def execBit1 (s : State) : Host.Outcome State Fault Refusal := .next (s.bitToken true)

/-- Token BAD2 (R143): FRAMING with DEC_BITS, in RUN and in DRAIN. -/
def execBad2 (s : State) : Host.Outcome State Fault Refusal := .next (s.fail .framing s.decBits)

/-- Token BAD3 (R143). -/
def execBad3 (s : State) : Host.Outcome State Fault Refusal := .next (s.fail .framing s.decBits)

/-- Token EOS (R142); its D bits are ignored (R80). -/
def execEos (_d : BitVec 2) (s : State) : Host.Outcome State Fault Refusal := .next s.flush.closeStream

end Sys2Proof.Machine
end

