-- ==== Sys2Proof/Machine/HostCommands.lean ====
section
/-! DEFINITION. The commands without tree work: NOP, CLEAR and the ILLEGAL command (40_host_and_frequency.md R95, R96,
R105). Each meaning is one engine step, completion included (R94). -/

namespace Sys2Proof.Machine

/-- TREE_VALID, CODE_VALID, SINGLE and the five result registers to 0: the common part of CLEAR (R96) and of
`fail_build` (R109). NODE and CODE are then not valid (R39, R41). -/
def State.dropTree (s : State) : State :=
  { s with
    treeValid := false
    codeValid := false
    single := false
    nsym := 0#9
    nnode := 0#9
    root := 0#9
    rootFreq := 0#32
    maxlen := 0#8 }

/-- NOP (R95). -/
def execNop (s : State) : Host.Outcome State Fault Refusal := .next s.complete

/-- CLEAR (R96). -/
def execClear (s : State) : Host.Outcome State Fault Refusal := .next s.zeroFreq.dropTree.complete

/-- ILLEGAL, OP 0x6 and 0x7 (R105). -/
def execIllegalOp6 (w : Word) (s : State) : Host.Outcome State Fault Refusal := .next (s.fail .illegal w)

/-- ILLEGAL, OP 0x8 to 0xF (R105). -/
def execIllegalOp8 (w : Word) (s : State) : Host.Outcome State Fault Refusal := .next (s.fail .illegal w)

/-- ILLEGAL, a reserved bit set (R105). -/
def execIllegalReserved (w : Word) (s : State) : Host.Outcome State Fault Refusal := .next (s.fail .illegal w)

end Sys2Proof.Machine
end

