-- ==== Sys2Proof/Machine/TreeBuilder.lean ====
section
/-! DEFINITION. BUILD (41_tree_builder.md R109 to R115): the leaves in ascending symbol order, then the two nodes of
least key combined until one is left. -/

namespace Sys2Proof.Machine

/-- A node key (freq, idx) (R11). The frequency is exact (R9). -/
structure Key where
  freq : Nat
  idx : Nat
  deriving DecidableEq, Repr

/-- The order of node keys (R11). -/
def Key.lt (a b : Key) : Bool := decide (a.freq < b.freq) || (decide (a.freq = b.freq) && decide (a.idx < b.idx))

/-- Take the least key out of a nonempty Q: the key, and Q without it (R112). -/
def takeLeast (k : Key) : List Key → Key × List Key
  | [] => (k, [])
  | x :: q =>
    if x.lt k then ((takeLeast x q).1, k :: (takeLeast x q).2)
    else ((takeLeast k q).1, x :: (takeLeast k q).2)

/-- The parent of the first-removed node `a` and the second-removed node `b` (R112). -/
def parentNode (a b : Key) : Node :=
  { freq := BitVec.ofNat 32 (a.freq + b.freq)
    leaf := false
    sym := 0#8
    right := BitVec.ofNat 9 b.idx
    left := BitVec.ofNat 9 a.idx }

/-- `combine` of R112: the internal nodes in creation order, the first at index `next`, from the nodes in Q. `fuel`
bounds the rounds; a round takes two nodes and puts one back, so as many rounds as Q has nodes are enough. -/
def combine : (fuel next : Nat) → List Key → List Node
  | 0, _, _ => []
  | _ + 1, _, [] => []
  | fuel + 1, next, k :: q =>
    match takeLeast k q with
    | (_, []) => []
    | (a, k' :: q') =>
      parentNode a (takeLeast k' q').1 ::
        combine fuel (next + 1)
          ({ freq := a.freq + (takeLeast k' q').1.freq, idx := next } :: (takeLeast k' q').2)

/-- The leaf of a present symbol (R111). -/
def State.leafNode (s : State) (sym : Byte) : Node :=
  { freq := s.freq sym, leaf := true, sym := sym, right := nilIdx, left := nilIdx }

/-- `place_leaves` of R111: leaf j is the j-th present symbol. -/
def State.leaves (s : State) : List Node := s.presentSymbols.map s.leafNode

/-- Q after `place_leaves`: the key of every leaf (R111). -/
def leafKeys (leaves : List Node) : List Key :=
  leaves.zipIdx.map (fun p => { freq := p.1.freq.toNat, idx := p.2 })

/-- The nodes 0, 1, … of the tree over some leaves: the leaves, then the internal nodes (R111, R112). -/
def treeNodes (leaves : List Node) : List Node :=
  leaves ++ combine leaves.length leaves.length (leafKeys leaves)

/-- The exact sum of FREQ over the present symbols (R110). -/
def State.totalFreq (s : State) : Nat := (s.presentSymbols.map (fun sym => (s.freq sym).toNat)).sum

/-- `place_leaves`, `combine` and `write_results` of R113, for n present symbols. -/
def State.writeTree (s : State) : State :=
  let n := s.presentSymbols.length
  let t := { s with mem := s.mem.setNodes 0 (treeNodes s.leaves) }
  { t with
    nsym := BitVec.ofNat 9 n
    nnode := BitVec.ofNat 9 (2 * n - 1)
    root := BitVec.ofNat 9 (2 * n - 2)
    rootFreq := t.nodeFreq (BitVec.ofNat 9 (2 * n - 2))
    treeValid := true
    codeValid := false
    single := n == 1
    maxlen := 0#8 }

/-- What BUILD leaves (R109): EMPTY is checked first, then OVERFLOW (R168). -/
def State.buildTree (s : State) : State :=
  if s.presentSymbols = [] then s.dropTree.fail .empty s.pendWord
  else if s.totalFreq > 0xFFFFFFFF then s.dropTree.fail .overflow s.pendWord
  else s.writeTree.complete

/-- BUILD (R109). -/
def execBuild (s : State) : Host.Outcome State Fault Refusal := .next s.buildTree

end Sys2Proof.Machine
end

