-- ==== Sys2Proof/Machine/Dispatch.lean ====
section
/-! DEFINITION. One arm per constructor of Instr: the engine step of each command and token (40_host_and_frequency.md R94,
43_decoder.md R141). -/

namespace Sys2Proof.Machine

def exec (i : Instr) (s : State) : Host.Outcome State Fault Refusal :=
  match i with
  | .nop => Sys2Proof.Machine.execNop s
  | .clear => Sys2Proof.Machine.execClear s
  | .build => Sys2Proof.Machine.execBuild s
  | .derive => Sys2Proof.Machine.execDerive s
  | .serialize => Sys2Proof.Machine.execSerialize s
  | .decode => Sys2Proof.Machine.execDecode s
  | .decodeLim => Sys2Proof.Machine.execDecodeLim s
  | .illegalOp6 w => Sys2Proof.Machine.execIllegalOp6 w s
  | .illegalOp8 w => Sys2Proof.Machine.execIllegalOp8 w s
  | .illegalReserved w => Sys2Proof.Machine.execIllegalReserved w s
  | .bit0 => Sys2Proof.Machine.execBit0 s
  | .bit1 => Sys2Proof.Machine.execBit1 s
  | .bad2 => Sys2Proof.Machine.execBad2 s
  | .bad3 => Sys2Proof.Machine.execBad3 s
  | .eos d => Sys2Proof.Machine.execEos d s

end Sys2Proof.Machine
end

