-- ==== Sys2Proof/Machine/Flags.lean ====
section
/-! DEFINITION. The registers as the words software sees (10_state.md R19 to R36) and the interrupt line (R44). -/

namespace Sys2Proof.Machine

/-- One bit as a word, at a bit position. -/
def bitAt (b : Bool) (k : Nat) : Word := (BitVec.ofBool b).zeroExtend 32 <<< k

/-- ID (R19). -/
def idWord : Word := 0x48554631#32

/-- CONFIG (R20). -/
def configWord : Word := 0xFF200100#32

/-- CTRL as read: SRST reads 0 (R21). -/
def State.ctrlWord (s : State) : Word := bitAt s.ieErr 2 ||| bitAt s.ieDone 1

/-- STATUS (R22). -/
def State.statusWord (s : State) : Word :=
  bitAt s.decActive 4 ||| bitAt s.single 3 ||| bitAt s.codeValid 2 ||| bitAt s.treeValid 1 ||| bitAt s.busy 0

/-- INT_PEND (R27). -/
def State.intPendWord (s : State) : Word := bitAt s.intErr 1 ||| bitAt s.intDone 0

/-- DEC_FLAGS (R35). -/
def DecFlags.word (f : DecFlags) : Word :=
  bitAt f.lim 4 ||| bitAt f.drained 3 ||| bitAt f.underrun 2 ||| bitAt f.limitHit 1 ||| bitAt f.partialCode 0

/-- IRQ (R44). -/
def State.irq (s : State) : Bool := (s.intDone && s.ieDone) || (s.intErr && s.ieErr)

/-- The level the platform's interrupt input sees (R167, IRQ_ROUTE). -/
def State.platformIrq (s : State) : Bool := Config.irqRoute s.irq

end Sys2Proof.Machine
end

