-- ==== Sys2Proof/Machine/HostPort.lean ====
section
/-! DEFINITION. The host window: its map (20_memory.md R51), the checks of an access (R52 to R56), stalls
(70_reset_and_hazards.md R192, R193), reads (R57, R98, R99, R106) and writes (R58). -/

namespace Sys2Proof.Machine

/-- The registers of R51. -/
inductive Reg where
  | id | config | ctrl | status | cmd | err | errFirst | errArg | intPend | nsym | nnode | root | rootFreq | maxlen
  | decCount | decBits | decFlags | decPtr
  deriving DecidableEq, Repr

/-- A mapped word of the window (R51). -/
inductive Loc where
  /-- A register. -/
  | reg (r : Reg)
  /-- FREQ[s]. -/
  | freq (s : Byte)
  /-- NODE[i], its LINK word or its FREQ word. -/
  | node (i : Nat) (link : Bool)
  /-- CODE[s], word w (0 to 15). -/
  | code (s : Byte) (w : Nat)
  deriving DecidableEq, Repr

/-- The registers at offsets 0x00, 0x04, … 0x44, in order (R51). -/
def regAt (k : Nat) : Option Reg :=
  [Reg.id, .config, .ctrl, .status, .cmd, .err, .errFirst, .errArg, .intPend, .nsym, .nnode, .root, .rootFreq, .maxlen,
    .decCount, .decBits, .decFlags, .decPtr][k]?

/-- The location at a word-aligned offset, or none where the window is unmapped (R51). -/
def locAt (a : Nat) : Option Loc :=
  if a < 0x400 then (regAt (a / 4)).map .reg
  else if a < 0x800 then some (.freq (BitVec.ofNat 8 ((a - 0x400) / 4)))
  else if a < 0x2000 then none
  else if a < 0x2FF8 then some (.node ((a - 0x2000) / 8) (decide (a % 8 = 4)))
  else if a < 0x4000 then none
  else if a < 0x8000 then some (.code (BitVec.ofNat 8 ((a - 0x4000) / 64)) ((a - 0x4000) % 64 / 4))
  else none

/-- The locations a write may name: CTRL, CMD, ERR, INT_PEND and FREQ (R51, R55). -/
def Loc.writable : Loc → Bool
  | .reg .ctrl => true
  | .reg .cmd => true
  | .reg .err => true
  | .reg .intPend => true
  | .reg _ => false
  | .freq _ => true
  | .node _ _ => false
  | .code _ _ => false

/-- The byte offset of an access. -/
def Access.off : Access → Offset
  | .read off _ => off
  | .write off _ _ => off

/-- The size of an access in bytes. -/
def Access.size : Access → Nat
  | .read _ size => size
  | .write _ size _ => size

/-- Whether an access is a write. -/
def Access.isWrite : Access → Bool
  | .read _ _ => false
  | .write _ _ _ => true

/-- The location of an access that passes the checks of R52 to R55, in the order of R56: size, alignment, mapping, write
permission; none where one fails. -/
def Access.target (a : Access) : Option Loc :=
  if a.size ≠ 4 then none
  else if a.off.toNat % 4 ≠ 0 then none
  else match locAt a.off.toNat with
    | none => none
    | some l => if a.isWrite && !l.writable then none else some l

/-- The reads that stall while BUSY (R192); the others never do (R193). -/
def Loc.readStalls : Loc → Bool
  | .reg .ctrl => true
  | .reg .cmd => true
  | .reg .nsym => true
  | .reg .nnode => true
  | .reg .root => true
  | .reg .rootFreq => true
  | .reg .maxlen => true
  | .reg _ => false
  | .freq _ => true
  | .node _ _ => true
  | .code _ _ => true

/-- The writes that stall while BUSY: to CMD and to FREQ (R192, R193). -/
def Loc.writeStalls : Loc → Bool
  | .reg .cmd => true
  | .reg _ => false
  | .freq _ => true
  | .node _ _ => false
  | .code _ _ => false

/-- Whether an access stalls in a state; a bad access never does (R56, R192). -/
def State.stalls (s : State) (a : Access) : Bool :=
  match a.target with
  | none => false
  | some l => s.busy && (if a.isWrite then l.writeStalls else l.readStalls)

/-- The value a read of a register returns (R99). -/
def State.readReg (s : State) : Reg → Word
  | .id => idWord
  | .config => configWord
  | .ctrl => s.ctrlWord
  | .status => s.statusWord
  | .cmd => s.cmd
  | .err => s.err.zeroExtend 32
  | .errFirst => s.errFirst.zeroExtend 32
  | .errArg => s.errArg
  | .intPend => s.intPendWord
  | .nsym => s.nsym.zeroExtend 32
  | .nnode => s.nnode.zeroExtend 32
  | .root => s.root.zeroExtend 32
  | .rootFreq => s.rootFreq
  | .maxlen => s.maxlen.zeroExtend 32
  | .decCount => s.decCount
  | .decBits => s.decBits
  | .decFlags => s.decFlags.word
  | .decPtr => s.decPtr.zeroExtend 32

/-- NODE[i] holds a node of the current tree (R39). -/
def State.nodeReadable (s : State) (i : Nat) : Bool := s.treeValid && decide (i < s.nnode.toNat)

/-- A read that returns "any value", drawn afresh (R57; log 5). -/
def State.drawRead (s : State) : State × Word := ({ s with draws := s.draws + 1 }, Config.invalidRead s.draws)

/-- The word a location holds; none where a read of it returns any value (R98, R99, R106, R39, R41). -/
def State.locWord (s : State) : Loc → Option Word
  | .reg r => some (s.readReg r)
  | .freq sym => some (s.freq sym)
  | .node i link => if s.nodeReadable i then some (s.mem.getWord (nodeAddr i + if link then 4 else 0)) else none
  | .code sym w =>
    if 9 ≤ w then some 0#32
    else if s.codeValid then some (s.mem.getWord (codeAddr sym + 4 * w))
    else none

/-- A read of a location: the value, and the state after, which differs only by the draw (R57). -/
def State.readLoc (s : State) (l : Loc) : State × Word :=
  match s.locWord l with
  | some v => (s, v)
  | none => s.drawRead

/-- A write to CMD stores the word and issues it (R93). STATUS.BUSY rises with PEND. -/
def State.writeCmd (s : State) (v : Word) : State := { s with cmd := v, pend := some v }

/-- A write to CTRL (R21, R102, R103). -/
def State.writeCtrl (s : State) (v : Word) : State :=
  if v.getLsbD 0 then s.softReset else { s with ieDone := v.getLsbD 1, ieErr := v.getLsbD 2 }

/-- A write to a location (R58); read-only locations are not reached (R55). -/
def State.writeLoc (s : State) (l : Loc) (v : Word) : State :=
  match l with
  | .reg .ctrl => s.writeCtrl v
  | .reg .cmd => s.writeCmd v
  | .reg .err => s.writeErr v
  | .reg .intPend => s.writeIntPend v
  | .reg _ => s
  | .freq sym => s.setFreq sym v
  | .node _ _ => s
  | .code _ _ => s

/-- A bad access: BADACC with the byte offset (R52 to R56, R162). -/
def State.badAccess (s : State) (a : Access) : State := s.raise .badacc (a.off.zeroExtend 32)

/-- Perform an access that does not stall: the state after, and the value a read returns (0 where it is bad). -/
def State.access (s : State) : Access → State × Option Word
  | .read off size =>
    match (Access.read off size).target with
    | none => (s.badAccess (.read off size), some 0#32)
    | some l => ((s.readLoc l).1, some (s.readLoc l).2)
  | .write off size v =>
    match (Access.write off size v).target with
    | none => (s.badAccess (.write off size v), none)
    | some l => (s.writeLoc l v, none)

/-- The platform address of a window offset (R50, MMIO_BASE). -/
def platformAddress (off : Offset) : Nat := Config.mmioBase + off.toNat

/-- How host memory shows a word the block returned (R60, HOST_LANE_ORDER). -/
def hostView (v : Word) : Word := Config.hostLaneOrder v

end Sys2Proof.Machine
end

