-- ==== Sys2Proof/Machine/Agents.lean ====
section
/-! DEFINITION. One turn of each agent (00_scope.md R6, 20_memory.md R63): the engine (R94, R141), a bus master (R192), the
bit source (R67), the sinks (R66), the power-on reset (R186), and whose turn it is when no turn is given. An agent that
has no step lets its turn pass (log 8). -/

namespace Sys2Proof.Machine

/-- What the engine is about to run: the issued command word, or the oldest token of an active DECODE; none where it has
no step (R94, R141). -/
def State.fetched (s : State) : Option Encoded :=
  match s.pend with
  | none => none
  | some w => if s.decActive then s.bitIn.head?.map .tok else some (.cmd w)

/-- `Take(BIT_IN)` for a token; a command takes nothing (R13, R141). -/
def State.take (s : State) : Encoded → State
  | .cmd _ => s
  | .tok _ => { s with bitIn := s.bitIn.tail }

/-- The engine's turn: run what is fetched. -/
def engineTurn (s : State) : Host.Outcome State Fault Refusal :=
  match s.fetched with
  | none => .next s
  | some e => exec (decodeEncoded e) (s.take e)

/-- The access bus master m is to perform next, if any. -/
def State.nextAccess (s : State) (m : Nat) : Option Access := (s.masters[m]?).bind (fun h => h.todo.head?)

/-- Master m has performed its next access and a read returned `v`. -/
def Master.done (h : Master) (v : Option Word) : Master := { todo := h.todo.tail, got := h.got ++ v.toList }

/-- Bus master m's turn: its next access, unless that access stalls (R192). -/
def hostTurn (m : Nat) (s : State) : State :=
  match s.nextAccess m with
  | none => s
  | some a =>
    if s.stalls a then s
    else { (s.access a).1 with masters := (s.access a).1.masters.modify m (fun h => h.done (s.access a).2) }

/-- The bit source's turn: append its next token to BIT_IN (R67). -/
def sourceTurn (s : State) : State :=
  match s.source with
  | [] => s
  | t :: ts => { s with bitIn := s.bitIn ++ [t], source := ts }

/-- The turn of the consumer of SYM_OUT: remove the oldest byte (R66; log 13). -/
def symSinkTurn (s : State) : State := { s with symOut := s.symOut.tail }

/-- The turn of the consumer of TBL_OUT. -/
def tblSinkTurn (s : State) : State := { s with tblOut := s.tblOut.tail }

/-- One turn of an agent. -/
def agentTurn (s : State) : Agent → Host.Outcome State Fault Refusal
  | .engine => engineTurn s
  | .host m => .next (hostTurn m s)
  | .source => .next (sourceTurn s)
  | .symSink => .next (symSinkTurn s)
  | .tblSink => .next (tblSinkTurn s)
  | .power => .next s.powerOn

/-- Bus master m has an access that does not stall. -/
def State.hostReady (s : State) (m : Nat) : Bool :=
  match s.nextAccess m with
  | none => false
  | some a => !s.stalls a

/-- The first master that has a step. -/
def State.readyMaster (s : State) : Option Nat := (List.range s.masters.length).find? s.hostReady

/-- A step with no turn given (log 9): the engine before the masters before the bit source, each only if it has a step. With
nothing left to do the state stays (R178), unless a DECODE waits for a token that no agent will bring (R194; log 11). -/
def idleTurn (s : State) : Host.Outcome State Fault Refusal :=
  if s.fetched.isSome then engineTurn s
  else match s.readyMaster with
    | some m => .next (hostTurn m s)
    | none =>
      if s.source ≠ [] then .next (sourceTurn s)
      else if s.busy then .fault .stuck
      else .next s

/-- Put an encoded instruction where the engine fetches next (log 2, 19): a command word is written to CMD and issued; a
token is the oldest of BIT_IN, with a DECODE active. -/
def State.placeFetch (s : State) : Encoded → State
  | .cmd w => { s with cmd := w, pend := some w, decActive := false }
  | .tok t => { s with pend := some (s.pend.getD 0x00000005#32), decActive := true, bitIn := t :: s.bitIn }

/-- Give the engine the next turn. -/
def State.engineNext (s : State) : State := { s with turns := .engine :: s.turns }

end Sys2Proof.Machine
end

