-- ==== Sys2Proof/Machine/Step.lean ====
section
/-! DEFINITION. One step of the machine: one turn of one agent (20_memory.md R63). -/

namespace Sys2Proof.Machine

/-- The first turn given, or the default. -/
def step (s : State) : Host.Outcome State Fault Refusal :=
  match s.turns with
  | [] => idleTurn s
  | a :: rest => agentTurn { s with turns := rest } a

/-- `s` with an opcode-table word where the engine fetches its next instruction, and the engine's turn next (log 2). A word
the table cannot hold changes nothing. -/
def State.withFetchWord (s : State) (nbits w : Nat) : State :=
  match tableWord nbits w with
  | none => s
  | some e => (s.placeFetch e).engineNext

end Sys2Proof.Machine
end

