-- ==== Sys2Proof/Machine/Run.lean ====
section
/-! DEFINITION. The end of a run of a host program and the observation made then (70_reset_and_hazards.md R200). -/

namespace Sys2Proof.Machine

/-- The host program has performed its last access: no bus master has one left. -/
def State.hostDone (s : State) : Bool := s.masters.all (fun h => h.todo.isEmpty)

/-- A host access is stalled: the next access of some bus master. -/
def State.hostStalled (s : State) : Bool := s.masters.any (fun h => h.todo.head?.any s.stalls)

/-- The run has ended: the host is done, STATUS.BUSY = 0 and no host access is stalled (R200). Tokens the bit source has
still to append, and bytes the sinks have still to take, do not matter. -/
def State.runEnded (s : State) : Bool := s.hostDone && !s.busy && !s.hostStalled

/-- What R200 observes of a run. -/
structure Observation where
  /-- The word at each window offset 4k, by k: every register and memory word. None where the window is unmapped, and
  where a read returns any value. -/
  window : List (Option Word)
  /-- The contents of SYM_OUT. -/
  symOut : List Byte
  /-- The contents of TBL_OUT. -/
  tblOut : List Byte
  /-- The tokens left in BIT_IN. -/
  bitIn : List Token
  deriving DecidableEq, Repr

/-- The observation of a state (R200). -/
def State.observe (s : State) : Observation where
  window := (List.range 0x2000).map (fun k => (locAt (4 * k)).bind s.locWord)
  symOut := s.symOut
  tblOut := s.tblOut
  bitIn := s.bitIn

end Sys2Proof.Machine
end

