-- ==== Sys2Proof/Safety.lean ====
section
/-! DEFINITION. What the statements speak of: what a step leaves alone, what it means that a command completed or raised a
cause, the invariants of the block, the walk along a code, and the end of a run. -/

namespace Sys2Proof.Machine

/-! ### What stays the same -/

/-- CTRL and CMD are as before. -/
def SameCtrl (s t : State) : Prop := t.ieErr = s.ieErr ∧ t.ieDone = s.ieDone ∧ t.cmd = s.cmd

/-- ERR, ERR_FIRST, ERR_ARG and INT_PEND.ERR are as before. -/
def SameErr (s t : State) : Prop :=
  t.err = s.err ∧ t.errFirst = s.errFirst ∧ t.errArg = s.errArg ∧ t.intErr = s.intErr

/-- TREE_VALID, CODE_VALID, SINGLE and the result registers are as before. -/
def SameTree (s t : State) : Prop :=
  t.treeValid = s.treeValid ∧ t.codeValid = s.codeValid ∧ t.single = s.single ∧ t.nsym = s.nsym ∧ t.nnode = s.nnode ∧
    t.root = s.root ∧ t.rootFreq = s.rootFreq ∧ t.maxlen = s.maxlen

/-- DEC_COUNT, DEC_BITS, DEC_FLAGS, DEC_PTR and DMODE are as before. -/
def SameDecoder (s t : State) : Prop :=
  t.decCount = s.decCount ∧ t.decBits = s.decBits ∧ t.decFlags = s.decFlags ∧ t.decPtr = s.decPtr ∧ t.dmode = s.dmode

/-- PEND, DEC_ACTIVE and INT_PEND.DONE are as before: no command was issued or completed. -/
def SameProgress (s t : State) : Prop := t.pend = s.pend ∧ t.decActive = s.decActive ∧ t.intDone = s.intDone

/-- Every byte of FREQ, NODE and CODE reads as before. -/
def SameMemory (s t : State) : Prop :=
  (∀ a, t.mem.get a = s.mem.get a) ∧ t.freqUnwritten = s.freqUnwritten ∧ t.epoch = s.epoch

/-- The three streams are as before. -/
def SameStreams (s t : State) : Prop := t.bitIn = s.bitIn ∧ t.symOut = s.symOut ∧ t.tblOut = s.tblOut

/-- The agents outside, and the count of draws, are as before. -/
def SameOutside (s t : State) : Prop :=
  t.draws = s.draws ∧ t.masters = s.masters ∧ t.source = s.source ∧ t.turns = s.turns

/-! ### What a command ends with -/

/-- The command in progress has completed (R104). -/
def Completed (t : State) : Prop := t.pend = none ∧ t.busy = false ∧ t.decActive = false ∧ t.intDone = true

/-- `t` records cause `c` with argument `arg` over `s` (R161, R163). -/
def Raised (c : Cause) (arg : Word) (s t : State) : Prop :=
  (s.err = 0#8 → t.errFirst.toNat = c.number + 1 ∧ t.errArg = arg) ∧
    (s.err ≠ 0#8 → t.errFirst = s.errFirst ∧ t.errArg = s.errArg) ∧
    (∀ k, k < 8 → t.err.getLsbD k = (s.err.getLsbD k || k == c.number)) ∧ t.intErr = true

/-- TREE_VALID, CODE_VALID, SINGLE and the result registers are 0 (R96, `fail_build` of R109). -/
def NoTree (t : State) : Prop :=
  t.treeValid = false ∧ t.codeValid = false ∧ t.single = false ∧ t.nsym = 0#9 ∧ t.nnode = 0#9 ∧ t.root = 0#9 ∧
    t.rootFreq = 0#32 ∧ t.maxlen = 0#8

/-- The instruction of the token of a bit. -/
def bitInstr (v : Bool) : Instr := if v then .bit1 else .bit0

/-- The token of a bit (R80). -/
def bitToken (v : Bool) : Token := if v then 1#3 else 0#3

/-! ### The tree -/

/-- The exact sum of the 256 frequencies (R110). -/
def State.freqSum (s : State) : Nat := (allSymbols.map (fun sym => (s.freq sym).toNat)).sum

/-- FREQ, LEFT and RIGHT of the node with index i, as numbers, and whether it is a leaf. -/
def State.freqAt (s : State) (i : Nat) : Nat := (s.nodeFreq (BitVec.ofNat 9 i)).toNat

def State.leftAt (s : State) (i : Nat) : Nat := (s.left (BitVec.ofNat 9 i)).toNat

def State.rightAt (s : State) (i : Nat) : Nat := (s.right (BitVec.ofNat 9 i)).toNat

def State.symAt (s : State) (i : Nat) : Byte := s.nodeSym (BitVec.ofNat 9 i)

def State.leafAt (s : State) (i : Nat) : Bool := s.isLeaf (BitVec.ofNat 9 i)

/-- The key of node i is below the key of node j (R11). -/
def KeyBelow (s : State) (i j : Nat) : Prop := s.freqAt i < s.freqAt j ∨ (s.freqAt i = s.freqAt j ∧ i < j)

/-- Node j is still in Q when the k-th parent is made over n leaves: it exists, and no earlier parent took it (R112). -/
def InQueue (s : State) (n k j : Nat) : Prop :=
  j < n + k ∧ ∀ k', k' < k → s.leftAt (n + k') ≠ j ∧ s.rightAt (n + k') ≠ j

/-- The node reached from node i along a code: 0 to the left child, 1 to the right (R10, R125). -/
def State.follow (s : State) : NodeIdx → Code → NodeIdx
  | i, [] => i
  | i, b :: c => s.follow (s.child i b) c

/-! ### Invariants -/

/-- ERR, ERR_FIRST and ERR_ARG fit together (R25, R163). -/
abbrev ErrInv (s : State) : Prop :=
  (s.err = 0#8 ↔ s.errFirst = 0#4) ∧ (s.err = 0#8 → s.errArg = 0#32) ∧ s.errFirst.toNat ≤ 8

/-- The valid bits, PEND, DEC_ACTIVE and DMODE fit together (R22, R42, R139). -/
abbrev ControlInv (s : State) : Prop :=
  (s.codeValid = true → s.treeValid = true) ∧
    (s.decActive = true → s.treeValid = true ∧
      (s.pend = some 0x00000005#32 ∧ s.decFlags.lim = false ∨ s.pend = some 0x00000015#32 ∧ s.decFlags.lim = true)) ∧
    (s.dmode = .drain ↔ s.decFlags.limitHit = true)

/-- The result registers of a valid tree of n = NSYM leaves (R28 to R31). -/
abbrev TreeRegs (s : State) : Prop :=
  (1 ≤ s.nsym.toNat ∧ s.nsym.toNat ≤ 256 ∧ s.nnode.toNat = 2 * s.nsym.toNat - 1 ∧
    s.root.toNat = 2 * s.nsym.toNat - 2 ∧ (s.single = true ↔ s.nsym.toNat = 1)) ∧
    s.rootFreq.toNat = s.freqAt s.root.toNat ∧ s.rootFreq.toNat = ((List.range s.nsym.toNat).map s.freqAt).sum

/-- Nodes 0 to n-1 are leaves of present symbols, in ascending symbol order (R46, R111). -/
abbrev TreeLeaves (s : State) : Prop :=
  (∀ j, j < s.nsym.toNat → s.leafAt j = true ∧ s.leftAt j = 0x1FF ∧ s.rightAt j = 0x1FF ∧ 1 ≤ s.freqAt j) ∧
    ∀ j, j < s.nsym.toNat → ∀ i, i < j → (s.symAt i).toNat < (s.symAt j).toNat

/-- Nodes n to 2n-2 are internal, with two children of lower index, SYM 0 and the sum of the children's frequencies
(R38, R46). -/
abbrev TreeInner (s : State) : Prop :=
  ∀ i, i < s.nnode.toNat → s.nsym.toNat ≤ i →
    s.leafAt i = false ∧ s.leftAt i < i ∧ s.rightAt i < i ∧ s.leftAt i ≠ s.rightAt i ∧
      s.symAt i = 0#8 ∧ s.freqAt i = s.freqAt (s.leftAt i) + s.freqAt (s.rightAt i)

/-- The reserved bits of every LINK word of the tree are 0 (R38, R57). -/
abbrev TreeReserved (s : State) : Prop :=
  ∀ i, i < s.nnode.toNat → linkReserved (s.nodeLink (BitVec.ofNat 9 i)) = 0#5

/-- Node i is an internal node, and node j one of its children. -/
def State.parentOf (s : State) (i j : Nat) : Bool := decide (s.nsym.toNat ≤ i) && (s.leftAt i == j || s.rightAt i == j)

/-- Every node below the root is the child of exactly one internal node (R46). -/
abbrev TreeParents (s : State) : Prop :=
  (∀ j, j < s.root.toNat → ∃ i, i < s.nnode.toNat ∧ s.parentOf i j = true) ∧
    ∀ j, j < s.root.toNat → ∀ i, i < s.nnode.toNat → ∀ i', i' < s.nnode.toNat →
      s.parentOf i j = true → s.parentOf i' j = true → i' = i

/-- What the result registers and NODE hold with TREE_VALID = 0 and 1 (R28 to R32, R46). -/
abbrev TreeInv (s : State) : Prop :=
  (s.treeValid = false → s.single = false ∧ s.nsym = 0#9 ∧ s.nnode = 0#9 ∧ s.root = 0#9 ∧ s.rootFreq = 0#32) ∧
    (s.codeValid = false → s.maxlen = 0#8) ∧
    (s.treeValid = true → TreeRegs s ∧ TreeLeaves s ∧ TreeInner s ∧ TreeReserved s ∧ TreeParents s)

/-- Where an active DECODE stands (R36, R42, R140, R151). -/
abbrev DecodeInv (s : State) : Prop :=
  s.decActive = true →
    s.decPtr.toNat < s.nnode.toNat ∧ (s.single = true → s.decPtr = s.root) ∧
      (s.decFlags.lim = true → s.decCount.toNat ≤ s.rootFreq.toNat) ∧
      (s.decFlags.lim = true → s.dmode = .run → s.decCount.toNat < s.rootFreq.toNat) ∧
      (s.dmode = .drain → s.decFlags.lim = true ∧ s.decCount = s.rootFreq ∧ s.decPtr = s.root)

/-- With CODE_VALID = 1, CODE holds the codes of the current tree: assigning them anew changes no byte (R41). -/
abbrev CodeInv (s : State) : Prop := s.codeValid = true → s.storeCodes.mem = s.mem

/-! ### The end of a run -/

/-- The run has ended (R200), and the agents outside have no turn and no token left either (log 11). -/
abbrev Quiet (s : State) : Prop := s.runEnded = true ∧ s.turns = [] ∧ s.source = []

/-- A DECODE waits for a token and nobody can bring one (R194): the stuck state. -/
def Hung (s : State) : Prop :=
  s.turns = [] ∧ s.source = [] ∧ s.busy = true ∧ s.decActive = true ∧ s.bitIn = [] ∧
    ∀ m a, s.nextAccess m = some a → s.stalls a = true

end Sys2Proof.Machine
end

