-- ==== Sys2Proof/Certificates/Slice0/Obligations.lean ====
section
/-! DEFINITION. The statements for the provers. Each docstring names the rules it formalises. -/

open Sys2Proof Sys2Proof.Machine

/-! ### Encoding -/

/-- R75, R76, R80, R81: decoding the encoded form of a well-formed instruction gives it back. -/
def Obligations.DecodeOfEncode : Prop :=
  ∀ i : Instr, i.wellFormed = true → decodeEncoded (encode i) = i

/-- R76, R81: the decoders are total, and no bit of a word or token is dropped. -/
def Obligations.EncodeOfDecode : Prop :=
  ∀ e : Encoded, (decodeEncoded e).wellFormed = true ∧ encode (decodeEncoded e) = e

/-- R75, R80: some words and all eight tokens, written out from the tables. -/
def Obligations.SampleWordsDecode : Prop :=
  decodeCmd 0b00000000000000000000000000000000#32 = .nop ∧
  decodeCmd 0b00000000000000000000000000000001#32 = .clear ∧
  decodeCmd 0b00000000000000000000000000000010#32 = .build ∧
  decodeCmd 0b00000000000000000000000000000011#32 = .derive ∧
  decodeCmd 0b00000000000000000000000000000100#32 = .serialize ∧
  decodeCmd 0b00000000000000000000000000000101#32 = .decode ∧
  decodeCmd 0b00000000000000000000000000010101#32 = .decodeLim ∧
  decodeCmd 0b00000000000000000000000000010010#32 = .illegalReserved 0x12#32 ∧
  decodeCmd 0b00000000000000000000000000100101#32 = .illegalReserved 0x25#32 ∧
  decodeCmd 0b00000000000000000000000000000110#32 = .illegalOp6 6#32 ∧
  decodeCmd 0b10000000000000000000000000001111#32 = .illegalOp8 0x8000000F#32 ∧
  decodeTok 0b000#3 = .bit0 ∧ decodeTok 0b001#3 = .bit1 ∧ decodeTok 0b010#3 = .bad2 ∧ decodeTok 0b011#3 = .bad3 ∧
  decodeTok 0b100#3 = .eos 0#2 ∧ decodeTok 0b101#3 = .eos 1#2 ∧ decodeTok 0b110#3 = .eos 2#2 ∧ decodeTok 0b111#3 = .eos 3#2

/-! ### Steps and issue -/

/-- R94, R141: a step in which the engine moves runs the decoded command of PEND, or, with a DECODE active, the decoded oldest
token of BIT_IN, which it takes; the turn is used up, and nothing else is around exec. An active DECODE without a token
holds. That the engine moves when no turn is given is the model's choice (log 9). -/
def Obligations.StepRunsDecoded : Prop :=
  (∀ (s : State) (rest : List Agent) (w : Word), s.turns = .engine :: rest → s.pend = some w → s.decActive = false →
    step s = exec (decodeCmd w) { s with turns := rest }) ∧
  (∀ (s : State) (rest : List Agent) (w : Word) (t : Token) (ts : List Token), s.turns = .engine :: rest →
    s.pend = some w → s.decActive = true → s.bitIn = t :: ts →
    step s = exec (decodeTok t) { s with turns := rest, bitIn := ts }) ∧
  (∀ (s : State) (rest : List Agent) (w : Word), s.turns = .engine :: rest → s.pend = some w → s.decActive = true →
    s.bitIn = [] → step s = .next { s with turns := rest }) ∧
  (∀ (s : State) (w : Word), s.turns = [] → s.pend = some w → s.decActive = false → step s = exec (decodeCmd w) s) ∧
  (∀ (s : State) (w : Word) (t : Token) (ts : List Token), s.turns = [] → s.pend = some w → s.decActive = true →
    s.bitIn = t :: ts → step s = exec (decodeTok t) { s with bitIn := ts })

/-- R63, R192: a step in which bus master m moves performs its next access and records what a read returned, unless the
access stalls; then nothing happens. R66, R67: a step in which the bit source moves appends its next token at the end of
BIT_IN; one in which a sink moves removes the oldest byte of its stream; with no token or byte the turn passes. The turns,
the masters and the source are the model's own fields (log 2, 8, 10, 13). -/
def Obligations.StepPerformsAccess : Prop :=
  (∀ (s : State) (rest : List Agent) (m : Nat) (h : Master) (a : Access) (todo : List Access),
    s.turns = .host m :: rest → s.masters[m]? = some h → h.todo = a :: todo →
    (s.stalls a = true → step s = .next { s with turns := rest }) ∧
    (s.stalls a = false → step s = .next
      { ({ s with turns := rest }.access a).1 with
        masters := s.masters.set m
          { todo := todo, got := h.got ++ ({ s with turns := rest }.access a).2.toList } })) ∧
  (∀ (s : State) (rest : List Agent), s.turns = .source :: rest →
    (∀ x xs, s.source = x :: xs →
      step s = .next { s with turns := rest, bitIn := s.bitIn ++ [x], source := xs }) ∧
    (s.source = [] → step s = .next { s with turns := rest })) ∧
  (∀ (s : State) (rest : List Agent), s.turns = .symSink :: rest →
    (∀ b bs, s.symOut = b :: bs → step s = .next { s with turns := rest, symOut := bs }) ∧
    (s.symOut = [] → step s = .next { s with turns := rest })) ∧
  (∀ (s : State) (rest : List Agent), s.turns = .tblSink :: rest →
    (∀ b bs, s.tblOut = b :: bs → step s = .next { s with turns := rest, tblOut := bs }) ∧
    (s.tblOut = [] → step s = .next { s with turns := rest }))

/-- R93: a write to CMD, legal word or not, stores the word, makes it PEND and sets BUSY; it stalls exactly while BUSY = 1. -/
def Obligations.CmdWriteIssues : Prop :=
  ∀ (s : State) (w : Word),
    s.stalls (.write 0x010#15 4 w) = s.busy ∧
    ∃ t, s.access (.write 0x010#15 4 w) = (t, none) ∧ t.cmd = w ∧ t.pend = some w ∧ t.busy = true ∧
      t = { s with cmd := t.cmd, pend := t.pend }

/-- R94, R104: every command but DECODE completes in its one engine step, and so does a DECODE without a tree. -/
def Obligations.CommandsCompleteInOneStep : Prop :=
  ∀ (w : Word) (s : State), (w = 0x5#32 ∨ w = 0x15#32 → s.treeValid = false) →
    ∃ t, exec (decodeCmd w) s = .next t ∧ Completed t

/-- R168: a command or token raises at most one cause; with none, ERR, ERR_FIRST, ERR_ARG and INT_PEND.ERR stay. -/
def Obligations.AtMostOneCause : Prop :=
  ∀ (i : Instr) (s : State), ∃ t, exec i s = .next t ∧
    (SameErr s t ∨ ∃ c arg, c ≠ .badacc ∧ Raised c arg s t ∧ Completed t)

/-- R165: errors do not block later commands: what a command or token does to everything but the error registers does
not depend on them. -/
def Obligations.ErrorsDoNotBlock : Prop :=
  ∀ (i : Instr) (s s' : State),
    s' = { s with err := s'.err, errFirst := s'.errFirst, errArg := s'.errArg, intErr := s'.intErr } →
    ∃ t t', exec i s = .next t ∧ exec i s' = .next t' ∧
      t' = { t with err := t'.err, errFirst := t'.errFirst, errArg := t'.errArg, intErr := t'.intErr }

/-- R194, R178, R200: no step is refused; a step faults exactly in the hung state. A run that has ended stays ended at every
step, and the registers and memory words R200 observes stay too, unless the step is a power-on reset. When the agents
outside have no turn and no token left either, the state stays as it is, which is the model's choice (log 11). -/
def Obligations.OnlyHungStops : Prop :=
  ∀ s : State, (∀ r, step s ≠ .refused r) ∧ (step s = .fault .stuck ↔ Hung s) ∧
    (s.runEnded = true → ∃ t, step s = .next t ∧ t.runEnded = true ∧
      (s.turns.head? ≠ some .power → t.observe.window = s.observe.window)) ∧
    (Quiet s → step s = .next s)

/-! ### Commands without tree work -/

/-- R95, R104: NOP completes and changes nothing else. -/
def Obligations.NopOnlyCompletes : Prop :=
  ∀ s : State, ∃ t, exec .nop s = .next t ∧ Completed t ∧ SameCtrl s t ∧ SameErr s t ∧ SameTree s t ∧
    SameDecoder s t ∧ SameMemory s t ∧ SameStreams s t ∧ SameOutside s t

/-- R96: CLEAR zeroes FREQ, the valid bits and the result registers, and completes; no other byte and no other register
changes; no NODE entry and no CODE entry is readable as data after it. -/
def Obligations.ClearEmptiesTable : Prop :=
  ∀ s : State, ∃ t, exec .clear s = .next t ∧ (∀ sym, t.freq sym = 0#32) ∧ NoTree t ∧ Completed t ∧
    (∀ a, a < 0x400 ∨ 0x800 ≤ a → t.mem.get a = s.mem.get a) ∧ (∀ i, t.nodeReadable i = false) ∧
    t.epoch = s.epoch ∧ SameCtrl s t ∧ SameErr s t ∧ SameDecoder s t ∧ SameStreams s t ∧ SameOutside s t

/-- R75, R77, R105: each of the three ILLEGAL rows raises ILLEGAL with its word and completes, and nothing else changes; every
word that is none of the seven legal ones is performed so. -/
def Obligations.IllegalRaisesItsWord : Prop :=
  ∀ (w : Word) (s : State) (i : Instr),
    (i ∈ [Instr.illegalOp6 w, Instr.illegalOp8 w, Instr.illegalReserved w] ∨
      i = decodeCmd w ∧ w ∉ [0x0#32, 0x1#32, 0x2#32, 0x3#32, 0x4#32, 0x5#32, 0x15#32]) →
    ∃ t, exec i s = .next t ∧ Raised .illegal w s t ∧ Completed t ∧ SameCtrl s t ∧ SameTree s t ∧ SameDecoder s t ∧
      SameMemory s t ∧ SameStreams s t ∧ SameOutside s t

/-! ### BUILD -/

/-- R109, EMPTY: with no present symbol BUILD raises EMPTY with the command word and leaves no tree. -/
def Obligations.BuildOfEmptyTable : Prop :=
  ∀ s : State, (∀ sym, s.freq sym = 0#32) →
    ∃ t, exec .build s = .next t ∧ Raised .empty s.pendWord s t ∧ NoTree t ∧ Completed t ∧ SameCtrl s t ∧
      SameDecoder s t ∧ SameMemory s t ∧ SameStreams s t ∧ SameOutside s t

/-- R110: a total over 2^32 - 1 raises OVERFLOW with the command word and leaves no tree. -/
def Obligations.BuildOfTooLargeTotal : Prop :=
  ∀ s : State, 0xFFFFFFFF < s.freqSum →
    ∃ t, exec .build s = .next t ∧ Raised .overflow s.pendWord s t ∧ NoTree t ∧ Completed t ∧ SameCtrl s t ∧
      SameDecoder s t ∧ SameMemory s t ∧ SameStreams s t ∧ SameOutside s t

/-- R113, R115, R118: what a successful BUILD leaves in the registers, over n present symbols; ROOT_FREQ is the sum of
FREQ. The frame: no byte outside NODE[0..2n-2] and no other register changes. -/
def Obligations.BuildResults : Prop :=
  ∀ (s : State) (n : Nat), s.mem.wf = true → s.presentSymbols.length = n → 1 ≤ n → s.freqSum ≤ 0xFFFFFFFF →
    ∃ t, exec .build s = .next t ∧ t.nsym.toNat = n ∧ t.nnode.toNat = 2 * n - 1 ∧ t.root.toNat = 2 * n - 2 ∧
      t.rootFreq = t.nodeFreq t.root ∧ t.rootFreq.toNat = s.freqSum ∧ t.treeValid = true ∧ t.codeValid = false ∧
      (t.single = true ↔ n = 1) ∧ t.maxlen = 0#8 ∧ Completed t ∧
      (∀ a, a < 0x2000 ∨ 0x2000 + 8 * (2 * n - 1) ≤ a → t.mem.get a = s.mem.get a) ∧
      t.freqUnwritten = s.freqUnwritten ∧ t.epoch = s.epoch ∧
      SameCtrl s t ∧ SameErr s t ∧ SameDecoder s t ∧ SameStreams s t ∧ SameOutside s t

/-- R111, R38: leaf j is the j-th present symbol in ascending order, with its FREQ and two NIL children; its whole LINK word,
reserved bits 0. -/
def Obligations.BuildPlacesLeaves : Prop :=
  ∀ (s : State) (j : Nat) (hj : j < s.presentSymbols.length), s.mem.wf = true → s.freqSum ≤ 0xFFFFFFFF →
    ∃ t, exec .build s = .next t ∧ t.leafAt j = true ∧ t.symAt j = s.presentSymbols[j] ∧
      t.freqAt j = (s.freq s.presentSymbols[j]).toNat ∧ t.leftAt j = 0x1FF ∧ t.rightAt j = 0x1FF ∧
      (t.nodeLink (BitVec.ofNat 9 j)).toNat = 2 ^ 31 + 2 ^ 18 * s.presentSymbols[j].toNat + 2 ^ 9 * 0x1FF + 0x1FF ∧
      (∀ i, ∀ hi : i < j, (s.presentSymbols[i]).toNat < (s.presentSymbols[j]).toNat)

/-- R112, R114, R38: the k-th internal node's LEFT is the node of least key in Q and its RIGHT the next; its FREQ is the sum
of theirs; every other bit of its LINK word is 0. -/
def Obligations.BuildCombinesLeastKeys : Prop :=
  ∀ (s : State) (n k : Nat), s.mem.wf = true → s.presentSymbols.length = n → k + 1 < n → s.freqSum ≤ 0xFFFFFFFF →
    ∃ t, exec .build s = .next t ∧ t.leafAt (n + k) = false ∧ t.symAt (n + k) = 0#8 ∧
      InQueue t n k (t.leftAt (n + k)) ∧ InQueue t n k (t.rightAt (n + k)) ∧
      KeyBelow t (t.leftAt (n + k)) (t.rightAt (n + k)) ∧
      (∀ j, InQueue t n k j → j ≠ t.leftAt (n + k) → j ≠ t.rightAt (n + k) → KeyBelow t (t.rightAt (n + k)) j) ∧
      t.freqAt (n + k) = t.freqAt (t.leftAt (n + k)) + t.freqAt (t.rightAt (n + k)) ∧
      (t.nodeLink (BitVec.ofNat 9 (n + k))).toNat = 2 ^ 9 * t.rightAt (n + k) + t.leftAt (n + k)

/-- R116: parent frequencies do not fall in creation order. -/
def Obligations.ParentFrequenciesRise : Prop :=
  ∀ (s : State) (n k : Nat), s.mem.wf = true → s.presentSymbols.length = n → k + 2 < n → s.freqSum ≤ 0xFFFFFFFF →
    ∃ t, exec .build s = .next t ∧ t.freqAt (n + k) ≤ t.freqAt (n + k + 1)

/-- R114: BUILDs from equal FREQ contents write identical NODE contents and results. -/
def Obligations.EqualTablesEqualTrees : Prop :=
  ∀ s s' : State, s.mem.wf = true → s'.mem.wf = true → (∀ sym, s.freq sym = s'.freq sym) →
    ∃ t t', exec .build s = .next t ∧ exec .build s' = .next t' ∧ SameTree t t' ∧
      ∀ i, i < t.nnode.toNat → t.nodeFreq (BitVec.ofNat 9 i) = t'.nodeFreq (BitVec.ofNat 9 i) ∧
        t.nodeLink (BitVec.ofNat 9 i) = t'.nodeLink (BitVec.ofNat 9 i)

/-! ### DERIVE -/

/-- R123, R130, R139, R162: with TREE_VALID = 0 DERIVE, DECODE and DECODE.LIM raise NO_TREE, and with CODE_VALID = 0 SERIALIZE
raises NO_CODE, each with the command word; the command completes and nothing else changes. -/
def Obligations.MissingInputStopsCommands : Prop :=
  ∀ (s : State) (i : Instr) (c : Cause),
    (s.treeValid = false ∧ i ∈ [Instr.derive, Instr.decode, Instr.decodeLim] ∧ c = .noTree ∨
      s.codeValid = false ∧ i = .serialize ∧ c = .noCode) →
    ∃ t, exec i s = .next t ∧ Raised c s.pendWord s t ∧ Completed t ∧ SameCtrl s t ∧ SameTree s t ∧
      SameDecoder s t ∧ SameMemory s t ∧ SameStreams s t ∧ SameOutside s t

/-- R125, R128: over a tree of two or more leaves, DERIVE gives the symbol of each leaf the path from the root to it, and
each shorter part of the path stands at an internal node; each code has a bit, and at most n - 1. R40, R124: in every
entry the LEN word's bits 31:8 and the BITS bits from LEN on are 0; every other symbol gets no code, and its nine words are
0. -/
def Obligations.CodesArePaths : Prop :=
  ∀ s : State, s.mem.wf = true → TreeInv s → s.treeValid = true → s.single = false →
    ∃ t, exec .derive s = .next t ∧ t.codeValid = true ∧
      (∀ j, j < s.nsym.toNat →
        (t.follow t.root (t.code (s.symAt j))).toNat = j ∧
        (∀ k, k < (t.codeLen (s.symAt j)).toNat → t.isLeaf (t.follow t.root ((t.code (s.symAt j)).take k)) = false) ∧
        1 ≤ (t.codeLen (s.symAt j)).toNat ∧ (t.codeLen (s.symAt j)).toNat + 1 ≤ s.nsym.toNat) ∧
      (∀ sym : Byte, (t.mem.getWord (0x4000 + 64 * sym.toNat)).toNat = (t.codeLen sym).toNat ∧
        ∀ k, (t.codeLen sym).toNat ≤ k → k < 256 → t.codeBit sym k = false) ∧
      (∀ sym : Byte, (∀ j, j < s.nsym.toNat → s.symAt j ≠ sym) → t.codeLen sym = 0#8 ∧
        ∀ w, w < 9 → t.mem.getWord (0x4000 + 64 * sym.toNat + 4 * w) = 0#32)

/-- R126, R124, R40: over a single tree the one symbol gets the code "0", its LEN word 1 and its BITS words 0; every other
symbol gets no code, and its nine words are 0. -/
def Obligations.SingleSymbolCode : Prop :=
  ∀ s : State, s.mem.wf = true → s.treeValid = true → s.single = true →
    ∃ t, exec .derive s = .next t ∧ t.code (s.symAt 0) = [false] ∧ t.codeLen (s.symAt 0) = 1#8 ∧
      (∀ sym, sym ≠ s.symAt 0 → t.codeLen sym = 0#8) ∧
      (∀ sym : Byte, ∀ w, w < 9 → t.mem.getWord (0x4000 + 64 * sym.toNat + 4 * w) =
        if w = 0 ∧ sym = s.symAt 0 then 1#32 else 0#32) ∧ t.maxlen = 1#8 ∧ t.codeValid = true ∧ Completed t

/-- R124, R128: the frame of DERIVE: no byte outside CODE and no register but CODE_VALID and MAXLEN changes; MAXLEN is the
greatest length. -/
def Obligations.DeriveWritesOnlyCodes : Prop :=
  ∀ s : State, s.mem.wf = true → s.treeValid = true →
    ∃ t, exec .derive s = .next t ∧ t.codeValid = true ∧ Completed t ∧
      (∀ a, a < 0x4000 ∨ 0x8000 ≤ a → t.mem.get a = s.mem.get a) ∧
      (∀ sym, (t.codeLen sym).toNat ≤ t.maxlen.toNat) ∧ (∃ sym, t.codeLen sym = t.maxlen) ∧
      SameTree s { t with codeValid := s.codeValid, maxlen := s.maxlen } ∧
      t.freqUnwritten = s.freqUnwritten ∧ t.epoch = s.epoch ∧
      SameCtrl s t ∧ SameErr s t ∧ SameDecoder s t ∧ SameStreams s t ∧ SameOutside s t

/-- R129: no code is the beginning of another symbol's code. -/
def Obligations.CodesAreBeginningFree : Prop :=
  ∀ (s : State) (x y : Byte), s.mem.wf = true → TreeInv s → s.treeValid = true → x ≠ y →
    ∃ t, exec .derive s = .next t ∧ (t.codeLen x ≠ 0#8 → t.codeLen y ≠ 0#8 → ¬ t.code x <+: t.code y)

/-- R129: for two or more symbols the lengths fill the tree: the sum of 2^(-LEN) over the present symbols is 1, said over
the common denominator 2^255. -/
def Obligations.CodeLengthsFillTree : Prop :=
  ∀ s : State, s.mem.wf = true → TreeInv s → s.treeValid = true → s.single = false →
    ∃ t, exec .derive s = .next t ∧
      ((List.range s.nsym.toNat).map (fun j => 2 ^ (255 - (t.codeLen (s.symAt j)).toNat))).sum = 2 ^ 255

/-! ### SERIALIZE -/

/-- R130, R131, R133: SERIALIZE appends one line for each symbol with a code, ascending: the symbol, a space, the frequency
of its leaf, a space, the code's characters, a line feed; and changes no register or memory. -/
def Obligations.SerializeEmitsLines : Prop :=
  ∀ (s : State) (f : Byte → Word), TreeInv s → s.treeValid = true → s.codeValid = true →
    (∀ j, j < s.nsym.toNat → f (s.symAt j) = s.nodeFreq (BitVec.ofNat 9 j)) →
    (∀ sym, s.codeLen sym ≠ 0#8 → ∃ j, j < s.nsym.toNat ∧ s.symAt j = sym) →
    ∃ t, exec .serialize s = .next t ∧ Completed t ∧
      t.tblOut = s.tblOut ++ allSymbols.flatMap (fun sym =>
        if s.codeLen sym = 0#8 then []
        else emitDec (sym.zeroExtend 32) ++ [0x20#8] ++ emitDec (f sym) ++ [0x20#8] ++
          (List.range (s.codeLen sym).toNat).map (fun k => if s.codeBit sym k then 0x31#8 else 0x30#8) ++ [0x0A#8]) ∧
      t.bitIn = s.bitIn ∧ t.symOut = s.symOut ∧
      SameCtrl s t ∧ SameErr s t ∧ SameTree s t ∧ SameDecoder s t ∧ SameMemory s t ∧ SameOutside s t

/-- R132: emit_dec gives 1 to 10 ASCII digits whose value is v, most significant first, with no leading zero but the single
byte 0x30 for v = 0. -/
def Obligations.DecimalDigits : Prop :=
  ∀ v : Word, 1 ≤ (emitDec v).length ∧ (emitDec v).length ≤ 10 ∧
    (∀ d ∈ emitDec v, 0x30 ≤ d.toNat ∧ d.toNat ≤ 0x39) ∧
    (emitDec v).foldl (fun x d => 10 * x + (d.toNat - 0x30)) 0 = v.toNat ∧
    ((emitDec v).head? = some 0x30#8 → v = 0#32 ∧ emitDec v = [0x30#8])

/-! ### DECODE and the tokens -/

/-- R139: with a tree, DECODE and DECODE.LIM start: DEC_ACTIVE, the pointer at the root, the counters and flags cleared, LIM
as the word says, RUN; BUSY stays and nothing is taken or emitted. -/
def Obligations.DecodeStarts : Prop :=
  ∀ s : State, s.treeValid = true → ∀ p ∈ [(Instr.decode, false), (Instr.decodeLim, true)],
    ∃ t, exec p.1 s = .next t ∧ t.decActive = true ∧ t.decPtr = s.root ∧ t.decCount = 0#32 ∧ t.decBits = 0#32 ∧
      t.decFlags = { DecFlags.zero with lim := p.2 } ∧ t.dmode = .run ∧ t.pend = s.pend ∧ t.intDone = s.intDone ∧
      SameCtrl s t ∧ SameErr s t ∧ SameTree s t ∧ SameMemory s t ∧ SameStreams s t ∧ SameOutside s t

/-- R142: EOS. A leaf the pointer stands at is flushed in RUN mode of a multi-leaf tree, else a pointer inside the tree sets
PARTIAL; UNDERRUN, the pointer to ROOT, completion. -/
def Obligations.EosEndsDecode : Prop :=
  ∀ (s : State) (d : BitVec 2), ∃ t, exec (.eos d) s = .next t ∧ Completed t ∧ t.decPtr = s.root ∧
    (s.dmode = .run → s.single = false → s.isLeaf s.decPtr = true →
      t.symOut = s.symOut ++ [s.nodeSym s.decPtr] ∧ t.decCount = s.decCount + 1#32 ∧
      t.decFlags.partialCode = s.decFlags.partialCode ∧
      (s.decFlags.lim = true ∧ t.decCount = s.rootFreq → t.decFlags.limitHit = true ∧ t.dmode = .drain) ∧
      (¬(s.decFlags.lim = true ∧ t.decCount = s.rootFreq) →
        t.decFlags.limitHit = s.decFlags.limitHit ∧ t.dmode = s.dmode)) ∧
    (s.dmode = .drain ∨ s.single = true ∨ s.isLeaf s.decPtr = false →
      t.symOut = s.symOut ∧ t.decCount = s.decCount ∧ t.decFlags.limitHit = s.decFlags.limitHit ∧ t.dmode = s.dmode ∧
      (s.dmode = .run ∧ s.single = false ∧ s.decPtr ≠ s.root → t.decFlags.partialCode = true) ∧
      (s.dmode = .drain ∨ s.single = true ∨ s.decPtr = s.root →
        t.decFlags.partialCode = s.decFlags.partialCode)) ∧
    (s.decFlags.lim = true ∧ t.decCount.toNat < s.rootFreq.toNat → t.decFlags.underrun = true) ∧
    (¬(s.decFlags.lim = true ∧ t.decCount.toNat < s.rootFreq.toNat) → t.decFlags.underrun = s.decFlags.underrun) ∧
    t.decFlags.lim = s.decFlags.lim ∧ t.decFlags.drained = s.decFlags.drained ∧ t.decBits = s.decBits ∧
    t.bitIn = s.bitIn ∧ t.tblOut = s.tblOut ∧
    SameCtrl s t ∧ SameErr s t ∧ SameTree s t ∧ SameMemory s t ∧ SameOutside s t

/-- R143, R150: BAD2 and BAD3 raise FRAMING with DEC_BITS, in RUN and in DRAIN, and complete; pointer, counters, flags,
SYM_OUT and the tokens left stay. -/
def Obligations.BadTokensRaiseFraming : Prop :=
  ∀ s : State, ∀ i ∈ [Instr.bad2, Instr.bad3],
    ∃ t, exec i s = .next t ∧ Raised .framing s.decBits s t ∧ Completed t ∧ SameCtrl s t ∧ SameTree s t ∧
      SameDecoder s t ∧ SameMemory s t ∧ SameStreams s t ∧ SameOutside s t

/-- R144: a bit on a multi-leaf tree in RUN mode with the pointer at no leaf descends, and counts. -/
def Obligations.BitDescends : Prop :=
  ∀ (s : State) (v : Bool), s.dmode = .run → s.single = false → s.isLeaf s.decPtr = false →
    (if v then s.right s.decPtr else s.left s.decPtr) ≠ 0x1FF#9 →
    ∃ t, exec (bitInstr v) s = .next t ∧ t.decPtr = (if v then s.right s.decPtr else s.left s.decPtr) ∧
      t.decBits = s.decBits + 1#32 ∧ t.decCount = s.decCount ∧ t.decFlags = s.decFlags ∧ t.dmode = s.dmode ∧
      SameProgress s t ∧ SameCtrl s t ∧ SameErr s t ∧ SameTree s t ∧ SameMemory s t ∧ SameStreams s t ∧ SameOutside s t

/-- R144: a bit with the pointer at a leaf emits the leaf first and then descends from the root, unless the emission
reached the limit: then the bit is counted and not used. -/
def Obligations.BitAtLeafEmits : Prop :=
  ∀ (s : State) (v : Bool), s.dmode = .run → s.single = false → s.isLeaf s.decPtr = true →
    (¬(s.decFlags.lim = true ∧ s.decCount + 1#32 = s.rootFreq) →
      (if v then s.right s.root else s.left s.root) ≠ 0x1FF#9) →
    ∃ t, exec (bitInstr v) s = .next t ∧ t.symOut = s.symOut ++ [s.nodeSym s.decPtr] ∧
      t.decCount = s.decCount + 1#32 ∧ t.decBits = s.decBits + 1#32 ∧
      (s.decFlags.lim = true ∧ t.decCount = s.rootFreq → t.decPtr = s.root ∧ t.dmode = .drain ∧
        t.decFlags = { s.decFlags with limitHit := true }) ∧
      (¬(s.decFlags.lim = true ∧ t.decCount = s.rootFreq) →
        t.decPtr = (if v then s.right s.root else s.left s.root) ∧ t.dmode = .run ∧ t.decFlags = s.decFlags) ∧
      t.bitIn = s.bitIn ∧ t.tblOut = s.tblOut ∧
      SameProgress s t ∧ SameCtrl s t ∧ SameErr s t ∧ SameTree s t ∧ SameMemory s t ∧ SameOutside s t

/-- R144, R152: where the node to descend from has a NIL child for the bit, the bit raises CORRUPT with DEC_BITS and the DECODE
completes; the bit is not counted. A leaf the pointer stood at has been emitted before. -/
def Obligations.NilChildIsCorrupt : Prop :=
  ∀ (s : State) (v : Bool), s.dmode = .run → s.single = false →
    (s.isLeaf s.decPtr = false → (if v then s.right s.decPtr else s.left s.decPtr) = 0x1FF#9 →
      ∃ t, exec (bitInstr v) s = .next t ∧ Raised .corrupt s.decBits s t ∧ Completed t ∧ SameCtrl s t ∧ SameTree s t ∧
        SameDecoder s t ∧ SameMemory s t ∧ SameStreams s t ∧ SameOutside s t) ∧
    (s.isLeaf s.decPtr = true → ¬(s.decFlags.lim = true ∧ s.decCount + 1#32 = s.rootFreq) →
      (if v then s.right s.root else s.left s.root) = 0x1FF#9 →
      ∃ t, exec (bitInstr v) s = .next t ∧ Raised .corrupt s.decBits s t ∧ Completed t ∧
        t.symOut = s.symOut ++ [s.nodeSym s.decPtr] ∧ t.decCount = s.decCount + 1#32 ∧ t.decPtr = s.root ∧
        t.decBits = s.decBits ∧ t.decFlags = s.decFlags ∧ t.dmode = .run ∧ t.bitIn = s.bitIn ∧ t.tblOut = s.tblOut ∧
        SameCtrl s t ∧ SameTree s t ∧ SameMemory s t ∧ SameOutside s t)

/-- R145: in DRAIN mode a bit is counted and discarded, and sets DRAINED. -/
def Obligations.DrainDiscardsBits : Prop :=
  ∀ (s : State) (v : Bool), s.dmode = .drain →
    ∃ t, exec (bitInstr v) s = .next t ∧ t.decBits = s.decBits + 1#32 ∧
      t.decFlags = { s.decFlags with drained := true } ∧ t.decCount = s.decCount ∧ t.decPtr = s.decPtr ∧
      t.dmode = s.dmode ∧
      SameProgress s t ∧ SameCtrl s t ∧ SameErr s t ∧ SameTree s t ∧ SameMemory s t ∧ SameStreams s t ∧ SameOutside s t

/-- R146: bit 0 on a single tree in RUN mode emits the symbol at the pointer at once. -/
def Obligations.SingleZeroEmits : Prop :=
  ∀ s : State, s.dmode = .run → s.single = true →
    ∃ t, exec .bit0 s = .next t ∧ t.decBits = s.decBits + 1#32 ∧ t.symOut = s.symOut ++ [s.nodeSym s.decPtr] ∧
      t.decCount = s.decCount + 1#32 ∧ t.decPtr = s.root ∧
      (s.decFlags.lim = true ∧ t.decCount = s.rootFreq → t.dmode = .drain ∧
        t.decFlags = { s.decFlags with limitHit := true }) ∧
      (¬(s.decFlags.lim = true ∧ t.decCount = s.rootFreq) → t.dmode = .run ∧ t.decFlags = s.decFlags) ∧
      t.bitIn = s.bitIn ∧ t.tblOut = s.tblOut ∧
      SameProgress s t ∧ SameCtrl s t ∧ SameErr s t ∧ SameTree s t ∧ SameMemory s t ∧ SameOutside s t

/-- R147: bit 1 on a single tree in RUN mode raises CORRUPT with DEC_BITS and completes; nothing else changes. -/
def Obligations.SingleOneIsCorrupt : Prop :=
  ∀ s : State, s.dmode = .run → s.single = true →
    ∃ t, exec .bit1 s = .next t ∧ Raised .corrupt s.decBits s t ∧ Completed t ∧ SameCtrl s t ∧ SameTree s t ∧
      SameDecoder s t ∧ SameMemory s t ∧ SameStreams s t ∧ SameOutside s t

/-- R152: on a multi-leaf tree that is as BUILD leaves it, a bit never raises CORRUPT: the DECODE goes on. -/
def Obligations.CorruptIsUnreachable : Prop :=
  ∀ (s : State) (v : Bool), TreeInv s → ControlInv s → DecodeInv s → s.decActive = true → s.single = false →
    ∃ t, exec (bitInstr v) s = .next t ∧ SameErr s t ∧ t.decActive = true ∧ t.pend = s.pend

/-- R153: with FREQ the counts of a nonempty B and BUILD and DERIVE done, DECODE.LIM over the bits of B's codes, any number of
zero pad bits and EOS emits exactly B, and leaves what follows the EOS; without padding, DECODE emits exactly B too. With
padding, DECODE emits B followed by every symbol the pad bits decode to: the symbols whose codes, one after another, are the
pad bits but for a rest that begins with no code. -/
def Obligations.DecodeGivesBackInput : Prop :=
  ∀ (u b d : State) (input : List Byte) (pad : Nat) (left : List Token) (later : List Agent),
    u.mem.wf = true → input ≠ [] → input.length < 2 ^ 32 → (∀ sym, (u.freq sym).toNat = input.count sym) →
    exec .build u = .next b → exec .derive b = .next d →
    (∃ t, Host.Core.run core ((input.flatMap d.code).length + pad + 2)
        { d with
          cmd := 0x15#32
          pend := some 0x15#32
          bitIn := (input.flatMap d.code ++ List.replicate pad false).map bitToken ++ 4#3 :: left
          turns := List.replicate ((input.flatMap d.code).length + pad + 2) .engine ++ later } = .next t ∧
      t.symOut = d.symOut ++ input ∧ t.decCount.toNat = input.length ∧ t.decFlags.limitHit = true ∧ SameErr d t ∧
      t.busy = false ∧ t.bitIn = left) ∧
    (∃ t, Host.Core.run core ((input.flatMap d.code).length + 2)
        { d with
          cmd := 0x5#32
          pend := some 0x5#32
          bitIn := (input.flatMap d.code).map bitToken ++ 4#3 :: left
          turns := List.replicate ((input.flatMap d.code).length + 2) .engine ++ later } = .next t ∧
      t.symOut = d.symOut ++ input ∧ SameErr d t ∧ t.busy = false ∧ t.bitIn = left) ∧
    (∃ t phantom rest, Host.Core.run core ((input.flatMap d.code).length + pad + 2)
        { d with
          cmd := 0x5#32
          pend := some 0x5#32
          bitIn := (input.flatMap d.code ++ List.replicate pad false).map bitToken ++ 4#3 :: left
          turns := List.replicate ((input.flatMap d.code).length + pad + 2) .engine ++ later } = .next t ∧
      List.replicate pad false = phantom.flatMap d.code ++ rest ∧ (∀ sym ∈ phantom, d.codeLen sym ≠ 0#8) ∧
      (∀ sym, d.codeLen sym ≠ 0#8 → ¬ d.code sym <+: rest) ∧
      t.symOut = d.symOut ++ input ++ phantom ∧ t.decCount = BitVec.ofNat 32 (input.length + phantom.length) ∧
      (t.decFlags.partialCode = true ↔ rest ≠ []) ∧ SameErr d t ∧ t.busy = false ∧ t.bitIn = left)

/-! ### Which instruction may write what -/

/-- R37, R38, R40: only CLEAR writes FREQ, only BUILD writes NODE, only DERIVE writes CODE, among commands and tokens. -/
def Obligations.WritersOfMemories : Prop :=
  ∀ (i : Instr) (s : State), s.mem.wf = true → ∃ t, exec i s = .next t ∧
    (i ≠ .clear → (∀ sym, t.freq sym = s.freq sym)) ∧
    (i ≠ .build → ∀ a, 0x2000 ≤ a → a < 0x2FF8 → t.mem.get a = s.mem.get a) ∧
    (i ≠ .derive → ∀ a, 0x4000 ≤ a → a < 0x8000 → t.mem.get a = s.mem.get a)

/-- R43, R66: a command or token leaves BIT_IN alone (the token step's own take is around it), appends at most one byte to
SYM_OUT and only as a token, and appends to TBL_OUT only as SERIALIZE. -/
def Obligations.WritersOfStreams : Prop :=
  ∀ (i : Instr) (s : State), ∃ t, exec i s = .next t ∧ t.bitIn = s.bitIn ∧
    (t.symOut = s.symOut ∨ (i = .bit0 ∨ i = .bit1 ∨ ∃ d, i = .eos d) ∧ ∃ b, t.symOut = s.symOut ++ [b]) ∧
    (t.tblOut = s.tblOut ∨ i = .serialize ∧ ∃ bs, t.tblOut = s.tblOut ++ bs)

/-! ### The host window -/

/-- R52 to R56: an access of another size, misaligned, unmapped, or a write to a read-only location raises BADACC with its
byte offset; a read returns 0; nothing else changes, and it never stalls. -/
def Obligations.BadAccesses : Prop :=
  ∀ (s : State) (off : Offset) (size : Nat) (v : Word) (a : Nat), off.toNat = a →
    ((size ≠ 4 ∨ a % 4 ≠ 0 ∨ (0x48 ≤ a ∧ a < 0x400) ∨ (0x800 ≤ a ∧ a < 0x2000) ∨ (0x2FF8 ≤ a ∧ a < 0x4000)) →
      s.stalls (.read off size) = false ∧ ∃ t, s.access (.read off size) = (t, some 0#32) ∧
        Raised .badacc (BitVec.ofNat 32 a) s t ∧
        t = { s with err := t.err, errFirst := t.errFirst, errArg := t.errArg, intErr := t.intErr }) ∧
    ((size ≠ 4 ∨ a % 4 ≠ 0 ∨ ¬(a = 0x008 ∨ a = 0x010 ∨ a = 0x014 ∨ a = 0x020 ∨ (0x400 ≤ a ∧ a < 0x800))) →
      s.stalls (.write off size v) = false ∧ ∃ t, s.access (.write off size v) = (t, none) ∧
        Raised .badacc (BitVec.ofNat 32 a) s t ∧
        t = { s with err := t.err, errFirst := t.errFirst, errArg := t.errArg, intErr := t.intErr })

/-- R192, R193: which accesses stall while BUSY. -/
def Obligations.StallRule : Prop :=
  ∀ (s : State) (off : Offset) (v : Word) (a : Nat), off.toNat = a → a % 4 = 0 →
    (s.stalls (.read off 4) = true ↔ s.busy = true ∧
      (a = 0x008 ∨ a = 0x010 ∨ (0x024 ≤ a ∧ a ≤ 0x034) ∨ (0x400 ≤ a ∧ a < 0x800) ∨ (0x2000 ≤ a ∧ a < 0x2FF8) ∨ 0x4000 ≤ a)) ∧
    (s.stalls (.write off 4 v) = true ↔ s.busy = true ∧ (a = 0x010 ∨ (0x400 ≤ a ∧ a < 0x800)))

/-- R99, R19 to R36: what a read of each register returns; it changes nothing. -/
def Obligations.RegisterReads : Prop :=
  ∀ s : State, ∀ p ∈ [((0x000 : Nat), 0x48554631), (0x004, 0xFF200100),
      (0x008, 4 * s.ieErr.toNat + 2 * s.ieDone.toNat),
      (0x00C, 16 * s.decActive.toNat + 8 * s.single.toNat + 4 * s.codeValid.toNat + 2 * s.treeValid.toNat +
        s.pend.isSome.toNat),
      (0x010, s.cmd.toNat), (0x014, s.err.toNat), (0x018, s.errFirst.toNat), (0x01C, s.errArg.toNat),
      (0x020, 2 * s.intErr.toNat + s.intDone.toNat),
      (0x024, s.nsym.toNat), (0x028, s.nnode.toNat), (0x02C, s.root.toNat), (0x030, s.rootFreq.toNat),
      (0x034, s.maxlen.toNat), (0x038, s.decCount.toNat), (0x03C, s.decBits.toNat),
      (0x040, 16 * s.decFlags.lim.toNat + 8 * s.decFlags.drained.toNat + 4 * s.decFlags.underrun.toNat +
        2 * s.decFlags.limitHit.toNat + s.decFlags.partialCode.toNat),
      (0x044, s.decPtr.toNat)],
    s.access (.read (BitVec.ofNat 15 p.1) 4) = (s, some (BitVec.ofNat 32 p.2))

/-- R57, R98, R106: what a read of a memory word returns. A FREQ word, a valid NODE entry's two words and, with CODE_VALID = 1,
CODE words 0 to 8 are as stored; CODE words 9 to 15 read 0; none of these reads changes anything. Any other NODE or CODE
word is the next free value, and the read changes nothing but the count of draws. The statement holds for every value of
the free ones. -/
def Obligations.MemoryReads : Prop :=
  ∀ s : State,
    (∀ sym : Byte, s.access (.read (BitVec.ofNat 15 (0x400 + 4 * sym.toNat)) 4) = (s, some (s.freq sym))) ∧
    (∀ i, i < 511 →
      (s.treeValid = true ∧ i < s.nnode.toNat →
        s.access (.read (BitVec.ofNat 15 (0x2000 + 8 * i)) 4) = (s, some (s.nodeFreq (BitVec.ofNat 9 i))) ∧
        s.access (.read (BitVec.ofNat 15 (0x2004 + 8 * i)) 4) = (s, some (s.nodeLink (BitVec.ofNat 9 i)))) ∧
      (s.treeValid = false ∨ s.nnode.toNat ≤ i →
        ∀ a ∈ [0x2000 + 8 * i, 0x2004 + 8 * i],
          s.access (.read (BitVec.ofNat 15 a) 4) = ({ s with draws := s.draws + 1 }, some (Config.invalidRead s.draws)))) ∧
    (∀ (sym : Byte) (w : Nat),
      (w < 9 → s.codeValid = true →
        s.access (.read (BitVec.ofNat 15 (0x4000 + 64 * sym.toNat + 4 * w)) 4) =
          (s, some (s.mem.getWord (0x4000 + 64 * sym.toNat + 4 * w)))) ∧
      (w < 9 → s.codeValid = false →
        s.access (.read (BitVec.ofNat 15 (0x4000 + 64 * sym.toNat + 4 * w)) 4) =
          ({ s with draws := s.draws + 1 }, some (Config.invalidRead s.draws))) ∧
      (9 ≤ w → w < 16 →
        s.access (.read (BitVec.ofNat 15 (0x4000 + 64 * sym.toNat + 4 * w)) 4) = (s, some 0#32)))

/-- R97, R98: a FREQ write stores its value, leaves every other FREQ word and every NODE and CODE byte, and changes no
register. -/
def Obligations.FreqWriteThenRead : Prop :=
  ∀ (s : State) (sym : Byte) (v : Word), s.mem.wf = true →
    ∃ t, s.access (.write (BitVec.ofNat 15 (0x400 + 4 * sym.toNat)) 4 v) = (t, none) ∧ t.freq sym = v ∧
      (∀ x, x ≠ sym → t.freq x = s.freq x) ∧ (∀ a, 0x800 ≤ a → t.mem.get a = s.mem.get a) ∧
      t = { s with mem := t.mem, freqUnwritten := t.freqUnwritten }

/-- R100: a write to ERR clears the bits written 1; when ERR comes to 0 so do ERR_FIRST and ERR_ARG; otherwise they stay. It
never stalls, and INT_PEND.ERR and everything else stay. -/
def Obligations.ErrWriteClears : Prop :=
  ∀ (s : State) (v : Word), s.stalls (.write 0x014#15 4 v) = false ∧
    ∃ t, s.access (.write 0x014#15 4 v) = (t, none) ∧
      (∀ k, k < 8 → t.err.getLsbD k = (s.err.getLsbD k && !v.getLsbD k)) ∧
      (t.err = 0#8 → t.errFirst = 0#4 ∧ t.errArg = 0#32) ∧
      (t.err ≠ 0#8 → t.errFirst = s.errFirst ∧ t.errArg = s.errArg) ∧
      t = { s with err := t.err, errFirst := t.errFirst, errArg := t.errArg }

/-- R101, R44: a write to INT_PEND clears the bits written 1 and nothing else; it never stalls; IRQ follows. -/
def Obligations.IntPendWriteClears : Prop :=
  ∀ (s : State) (v : Word), s.stalls (.write 0x020#15 4 v) = false ∧
    ∃ t, s.access (.write 0x020#15 4 v) = (t, none) ∧ t.intDone = (s.intDone && !v.getLsbD 0) ∧
      t.intErr = (s.intErr && !v.getLsbD 1) ∧ t = { s with intDone := t.intDone, intErr := t.intErr } ∧
      (t.irq = true ↔ (t.intDone = true ∧ t.ieDone = true) ∨ (t.intErr = true ∧ t.ieErr = true))

/-- R102, R44: a write to CTRL with bit 0 = 0 sets the two enables and nothing else; it never stalls; IRQ follows. -/
def Obligations.CtrlWriteSetsEnables : Prop :=
  ∀ (s : State) (v : Word), v.getLsbD 0 = false → s.stalls (.write 0x008#15 4 v) = false ∧
    ∃ t, s.access (.write 0x008#15 4 v) = (t, none) ∧ t.ieDone = v.getLsbD 1 ∧ t.ieErr = v.getLsbD 2 ∧
      t = { s with ieDone := t.ieDone, ieErr := t.ieErr } ∧
      (t.irq = true ↔ (t.intDone = true ∧ t.ieDone = true) ∨ (t.intErr = true ∧ t.ieErr = true))

/-- R103, R187, R189: a write to CTRL with bit 0 = 1 is a soft reset: every register reads as at reset, PEND is none, the
streams and the NODE and CODE bytes stay, and so does FREQ, unless a CLEAR was aborted: then each word is its old value
or 0. It never stalls. The masters, the source and the turns stay too: they are outside the block. -/
def Obligations.SoftReset : Prop :=
  ∀ (s : State) (v : Word), s.mem.wf = true → v.getLsbD 0 = true → s.stalls (.write 0x008#15 4 v) = false ∧
    ∃ t, s.access (.write 0x008#15 4 v) = (t, none) ∧ (∀ r, t.readReg r = State.reset.readReg r) ∧ t.pend = none ∧
      t.dmode = .run ∧ t.irq = false ∧ SameStreams s t ∧ (∀ a, 0x800 ≤ a → t.mem.get a = s.mem.get a) ∧
      (s.pend ≠ some 0x1#32 → ∀ sym, t.freq sym = s.freq sym) ∧
      (∀ sym, t.freq sym = s.freq sym ∨ t.freq sym = 0#32) ∧ t.masters = s.masters ∧ t.source = s.source ∧ t.turns = s.turns

/-- R186, R187, R188: a power-on reset puts every register at its reset value, empties the streams, and draws FREQ anew. The draw's
number and what stays outside are the model's (log 3, 23). -/
def Obligations.PowerOnReset : Prop :=
  ∀ (s : State) (rest : List Agent), s.turns = .power :: rest →
    ∃ t, step s = .next t ∧ (∀ r, t.readReg r = State.reset.readReg r) ∧ t.pend = none ∧ t.dmode = .run ∧ t.irq = false ∧
      t.bitIn = [] ∧ t.symOut = [] ∧ t.tblOut = [] ∧ (∀ sym, t.freq sym = Config.powerOnFreq (s.epoch + 1) sym) ∧
      (∀ i, t.nodeReadable i = false) ∧ t.codeValid = false ∧ t.masters = s.masters ∧ t.source = s.source ∧ t.turns = rest

/-- R187: the reset values of the registers, the hidden state and the line. -/
def Obligations.ResetValues : Prop :=
  (∀ p ∈ [(Reg.id, 0x48554631#32), (.config, 0xFF200100#32), (.ctrl, 0#32), (.status, 0#32), (.cmd, 0#32), (.err, 0#32),
      (.errFirst, 0#32), (.errArg, 0#32), (.intPend, 0#32), (.nsym, 0#32), (.nnode, 0#32), (.root, 0#32), (.rootFreq, 0#32),
      (.maxlen, 0#32), (.decCount, 0#32), (.decBits, 0#32), (.decFlags, 0#32), (.decPtr, 0#32)],
    State.reset.readReg p.1 = p.2) ∧
  State.reset.pend = none ∧ State.reset.dmode = .run ∧ State.reset.irq = false ∧
  State.reset.bitIn = [] ∧ State.reset.symOut = [] ∧ State.reset.tblOut = []

/-- R161, R163: raising a cause records it and touches nothing else. -/
def Obligations.RaiseRecordsCause : Prop :=
  ∀ (s : State) (c : Cause) (arg : Word), Raised c arg s (s.raise c arg) ∧ SameCtrl s (s.raise c arg) ∧
    SameProgress s (s.raise c arg) ∧ SameTree s (s.raise c arg) ∧ SameDecoder s (s.raise c arg) ∧
    SameMemory s (s.raise c arg) ∧ SameStreams s (s.raise c arg) ∧ SameOutside s (s.raise c arg)

/-! ### Invariants of every step -/

/-- The memories keep their canonical form. -/
def Obligations.StepKeepsMemoryForm : Prop :=
  ∀ s t : State, s.mem.wf = true → step s = .next t → t.mem.wf = true

/-- R25, R163: ERR_FIRST is 0 exactly while ERR is 0, ERR_ARG is 0 then too, and ERR_FIRST is at most 8. -/
def Obligations.StepKeepsErrorCapture : Prop :=
  ∀ s t : State, ErrInv s → step s = .next t → ErrInv t

/-- R22, R42, R139: CODE_VALID implies TREE_VALID; DEC_ACTIVE implies a DECODE in PEND and a tree; DRAIN is LIMIT_HIT. -/
def Obligations.StepKeepsControl : Prop :=
  ∀ s t : State, ControlInv s → step s = .next t → ControlInv t

/-- R28 to R32, R38, R39, R46: the result registers and NODE keep the shape of the tree. -/
def Obligations.StepKeepsTree : Prop :=
  ∀ s t : State, s.mem.wf = true → TreeInv s → step s = .next t → TreeInv t

/-- R36, R42, R140, R151: the pointer of an active DECODE stays in the tree, DEC_COUNT never passes the limit. -/
def Obligations.StepKeepsDecoder : Prop :=
  ∀ s t : State, s.mem.wf = true → TreeInv s → ControlInv s → DecodeInv s → step s = .next t → DecodeInv t

/-- R41: while CODE_VALID = 1, CODE holds the codes of the current tree. -/
def Obligations.StepKeepsCodes : Prop :=
  ∀ s t : State, s.mem.wf = true → CodeInv s → step s = .next t → CodeInv t

/-- The invariants hold at reset. -/
def Obligations.ResetMeetsInvariants : Prop :=
  State.reset.mem.wf = true ∧ ErrInv State.reset ∧ ControlInv State.reset ∧ TreeInv State.reset ∧ DecodeInv State.reset ∧
    CodeInv State.reset
end

