-- ==== Sys2Proof/Laws/Memory.lean ====
section
/-! SUPPORT. The laws of the memories: reading after writing, and that every operation keeps the canonical form. -/

namespace Sys2Proof.Machine

/-! ### Bytes -/

theorem Memory.get_lt_of_wfFrom {lo a : Nat} {m : Memory} (h : Memory.wfFrom lo m = true) (ha : a < lo) :
    m.get a = Memory.unlisted := by
  induction m generalizing lo with
  | nil => rfl
  | cons c m ih =>
    simp only [Memory.wfFrom, Bool.and_eq_true, decide_eq_true_eq] at h
    have hne : c.1 ≠ a := by omega
    simp only [Memory.get, hne, if_false]
    exact ih h.2 (by omega)

theorem Memory.wfFrom_mono {lo lo' : Nat} {m : Memory} (h : Memory.wfFrom lo m = true) (hl : lo' ≤ lo) :
    Memory.wfFrom lo' m = true := by
  cases m with
  | nil => rfl
  | cons c m =>
    simp only [Memory.wfFrom, Bool.and_eq_true, decide_eq_true_eq] at h ⊢
    exact ⟨⟨by omega, h.1.2⟩, h.2⟩

theorem Memory.wfFrom_set {lo : Nat} {m : Memory} (h : Memory.wfFrom lo m = true) (a : Nat) (b : Byte) (ha : lo ≤ a) :
    Memory.wfFrom lo (m.set a b) = true := by
  induction m generalizing lo with
  | nil =>
    by_cases hb : b = Memory.unlisted <;> simp [Memory.set, Memory.wfFrom, hb, ha]
  | cons c m ih =>
    simp only [Memory.wfFrom, Bool.and_eq_true, decide_eq_true_eq] at h
    obtain ⟨⟨hlo, hne⟩, hm⟩ := h
    by_cases h1 : c.1 < a
    · simp only [Memory.set, h1, if_true, Memory.wfFrom, Bool.and_eq_true, decide_eq_true_eq]
      exact ⟨⟨hlo, hne⟩, ih hm (by omega)⟩
    · by_cases h2 : c.1 = a
      · subst h2
        by_cases hb : b = Memory.unlisted
        · simp only [Memory.set, lt_irrefl, hb, if_true, if_false]
          exact Memory.wfFrom_mono hm (by omega)
        · simp only [Memory.set, lt_irrefl, hb, if_true, if_false, Memory.wfFrom, Bool.and_eq_true, decide_eq_true_eq]
          exact ⟨⟨ha, hb⟩, hm⟩
      · by_cases hb : b = Memory.unlisted
        · simp only [Memory.set, h1, h2, hb, if_true, if_false, Memory.wfFrom, Bool.and_eq_true, decide_eq_true_eq]
          exact ⟨⟨hlo, hne⟩, hm⟩
        · simp only [Memory.set, h1, h2, hb, if_false, Memory.wfFrom, Bool.and_eq_true, decide_eq_true_eq]
          exact ⟨⟨ha, hb⟩, ⟨by omega, hne⟩, hm⟩

theorem Memory.wf_set {m : Memory} (h : m.wf = true) (a : Nat) (b : Byte) : (m.set a b).wf = true :=
  Memory.wfFrom_set h a b (Nat.zero_le a)

/-- Reading after writing, from an address on; the canonical form makes it hold at the address itself too. -/
theorem Memory.get_set_from {lo : Nat} {m : Memory} (h : Memory.wfFrom lo m = true) (a : Nat) (b : Byte) (x : Nat) :
    (m.set a b).get x = if x = a then b else m.get x := by
  induction m generalizing lo with
  | nil =>
    by_cases hx : x = a
    · by_cases hb : b = Memory.unlisted <;> simp [Memory.set, Memory.get, hb, hx]
    · have : a ≠ x := fun e => hx e.symm
      by_cases hb : b = Memory.unlisted <;> simp [Memory.set, Memory.get, hb, hx, this]
  | cons c m ih =>
    simp only [Memory.wfFrom, Bool.and_eq_true, decide_eq_true_eq] at h
    obtain ⟨⟨_, _⟩, hm⟩ := h
    by_cases h1 : c.1 < a
    · simp only [Memory.set, h1, if_true, Memory.get, ih hm]
      by_cases h3 : c.1 = x
      · have : x ≠ a := by omega
        simp [h3, this]
      · simp [h3]
    · by_cases h2 : c.1 = a
      · subst h2
        by_cases hx : x = c.1
        · have hget : Memory.get m c.1 = Memory.unlisted := Memory.get_lt_of_wfFrom hm (Nat.lt_succ_self _)
          by_cases hb : b = Memory.unlisted <;> simp [Memory.set, Memory.get, hb, hx, hget]
        · have : c.1 ≠ x := fun e => hx e.symm
          by_cases hb : b = Memory.unlisted <;> simp [Memory.set, Memory.get, hb, hx, this]
      · by_cases hx : x = a
        · have hget : Memory.get (c :: m) a = Memory.unlisted :=
            Memory.get_lt_of_wfFrom (lo := c.1) (m := c :: m)
              (by simp only [Memory.wfFrom, Bool.and_eq_true, decide_eq_true_eq]; exact ⟨⟨le_refl _, by assumption⟩, hm⟩)
              (by omega)
          by_cases hb : b = Memory.unlisted
          · simp only [Memory.set, h1, h2, hb, if_true, if_false, hx, hget]
          · simp [Memory.set, h1, h2, hb, hx, Memory.get]
        · have : a ≠ x := fun e => hx e.symm
          by_cases hb : b = Memory.unlisted
          · simp only [Memory.set, h1, h2, hb, if_true, if_false, hx]
          · simp [Memory.set, h1, h2, hb, hx, Memory.get, this]

/-- A byte read after a byte write. -/
theorem Memory.get_set {m : Memory} (h : m.wf = true) (a : Nat) (b : Byte) (x : Nat) :
    (m.set a b).get x = if x = a then b else m.get x :=
  Memory.get_set_from h a b x

/-- Two canonical memories that read the same everywhere are the same list. -/
theorem Memory.ext_get {lo : Nat} {m m' : Memory} (h : Memory.wfFrom lo m = true) (h' : Memory.wfFrom lo m' = true)
    (hg : ∀ a, m.get a = m'.get a) : m = m' := by
  induction m generalizing lo m' with
  | nil =>
    cases m' with
    | nil => rfl
    | cons c m' =>
      simp only [Memory.wfFrom, Bool.and_eq_true, decide_eq_true_eq] at h'
      have := hg c.1
      simp only [Memory.get, if_true] at this
      exact absurd this.symm h'.1.2
  | cons c m ih =>
    have hc := h
    simp only [Memory.wfFrom, Bool.and_eq_true, decide_eq_true_eq] at h
    cases m' with
    | nil =>
      have := hg c.1
      simp only [Memory.get, if_true] at this
      exact absurd this h.1.2
    | cons c' m' =>
      have hc' := h'
      simp only [Memory.wfFrom, Bool.and_eq_true, decide_eq_true_eq] at h'
      have haddr : c.1 = c'.1 := by
        rcases Nat.lt_trichotomy c.1 c'.1 with hlt | heq | hgt
        · have h1 := hg c.1
          have h2 : Memory.get (c' :: m') c.1 = Memory.unlisted :=
            Memory.get_lt_of_wfFrom (lo := c'.1)
              (by simp only [Memory.wfFrom, Bool.and_eq_true, decide_eq_true_eq]; exact ⟨⟨le_refl _, h'.1.2⟩, h'.2⟩) hlt
          rw [h2] at h1
          simp only [Memory.get, if_true] at h1
          exact absurd h1 h.1.2
        · exact heq
        · have h1 := hg c'.1
          have h2 : Memory.get (c :: m) c'.1 = Memory.unlisted :=
            Memory.get_lt_of_wfFrom (lo := c.1)
              (by simp only [Memory.wfFrom, Bool.and_eq_true, decide_eq_true_eq]; exact ⟨⟨le_refl _, h.1.2⟩, h.2⟩) hgt
          rw [h2] at h1
          simp only [Memory.get, if_true] at h1
          exact absurd h1.symm h'.1.2
      have hbyte : c.2 = c'.2 := by
        have := hg c.1
        simpa [Memory.get, haddr] using this
      have hrest : m = m' := by
        refine ih h.2 (haddr ▸ h'.2) (fun a => ?_)
        by_cases ha : a < c.1 + 1
        · rw [Memory.get_lt_of_wfFrom h.2 ha, Memory.get_lt_of_wfFrom h'.2 (haddr ▸ ha)]
        · have hne : c.1 ≠ a := by omega
          have hne' : c'.1 ≠ a := by omega
          simpa [Memory.get, hne, hne'] using hg a
      rw [hrest, Prod.ext haddr hbyte]

/-! ### Words -/

/-- The byte of a word that stands at distance k from its offset (log 7). -/
def Memory.lane (v : Word) (k : Nat) : Byte := v.extractLsb' (8 * k) 8

theorem Memory.wf_setWord {m : Memory} (h : m.wf = true) (a : Nat) (v : Word) : (m.setWord a v).wf = true :=
  Memory.wf_set (Memory.wf_set (Memory.wf_set (Memory.wf_set h _ _) _ _) _ _) _ _

/-- A byte read after a word write: the word's four bytes, and every other byte as before. -/
theorem Memory.get_setWord {m : Memory} (h : m.wf = true) (a : Nat) (v : Word) (x : Nat) :
    (m.setWord a v).get x = if a ≤ x ∧ x < a + 4 then Memory.lane v (x - a) else m.get x := by
  have h0 := Memory.wf_set h a (v.extractLsb' 0 8)
  have h1 := Memory.wf_set h0 (a + 1) (v.extractLsb' 8 8)
  have h2 := Memory.wf_set h1 (a + 2) (v.extractLsb' 16 8)
  unfold Memory.setWord
  rw [Memory.get_set h2, Memory.get_set h1, Memory.get_set h0, Memory.get_set h]
  by_cases hin : a ≤ x ∧ x < a + 4
  · obtain ⟨k, rfl⟩ := Nat.exists_eq_add_of_le hin.1
    have hk : k < 4 := by omega
    rw [if_pos hin, Nat.add_sub_cancel_left]
    interval_cases k <;> simp [Memory.lane]
  · rw [if_neg hin, if_neg (by omega), if_neg (by omega), if_neg (by omega), if_neg (by omega)]

theorem Memory.getWord_congr {m m' : Memory} {a : Nat} (h : ∀ k, k < 4 → m.get (a + k) = m'.get (a + k)) :
    m.getWord a = m'.getWord a := by
  unfold Memory.getWord
  have h0 := h 0 (by omega)
  rw [h 1 (by omega), h 2 (by omega), h 3 (by omega)]
  simp only [Nat.add_zero] at h0
  rw [h0]

/-- A word read after a word write to the same offset. -/
theorem Memory.getWord_setWord_same {m : Memory} (h : m.wf = true) (a : Nat) (v : Word) :
    (m.setWord a v).getWord a = v := by
  unfold Memory.getWord
  simp only [Memory.get_setWord h]
  rw [if_pos (by omega), if_pos (by omega), if_pos (by omega), if_pos (by omega)]
  simp only [Nat.add_sub_cancel_left, Nat.sub_self, Memory.lane]
  ext i hi
  simp only [BitVec.getElem_append, BitVec.getElem_extractLsb']
  by_cases h8 : i < 8
  · simp [h8, BitVec.getLsbD_eq_getElem hi]
  · by_cases h16 : i < 16
    · have : i - 8 < 8 := by omega
      have e : 8 + (i - 8) = i := by omega
      simp [h8, this, e, BitVec.getLsbD_eq_getElem hi]
    · by_cases h24 : i < 24
      · have h1 : ¬ i - 8 < 8 := by omega
        have h2 : i - 8 - 8 < 8 := by omega
        have e : 16 + (i - 8 - 8) = i := by omega
        simp [h8, h1, h2, e, BitVec.getLsbD_eq_getElem hi]
      · have h1 : ¬ i - 8 < 8 := by omega
        have h2 : ¬ i - 8 - 8 < 8 := by omega
        have e : 24 + (i - 8 - 8 - 8) = i := by omega
        simp [h8, h1, h2, e, BitVec.getLsbD_eq_getElem hi]

/-- A word read after a word write elsewhere. -/
theorem Memory.getWord_setWord_other {m : Memory} (h : m.wf = true) {a x : Nat} (v : Word)
    (hd : x + 4 ≤ a ∨ a + 4 ≤ x) : (m.setWord a v).getWord x = m.getWord x := by
  refine Memory.getWord_congr (fun k hk => ?_)
  rw [Memory.get_setWord h, if_neg (by omega)]

/-! ### Ranges and runs of words -/

theorem Memory.wfFrom_filter {lo : Nat} {m : Memory} (p : Host.Cell → Bool) (h : Memory.wfFrom lo m = true) :
    Memory.wfFrom lo (m.filter p) = true := by
  induction m generalizing lo with
  | nil => rfl
  | cons c m ih =>
    simp only [Memory.wfFrom, Bool.and_eq_true, decide_eq_true_eq] at h
    by_cases hp : p c = true
    · simp only [List.filter_cons, hp, if_true, Memory.wfFrom, Bool.and_eq_true, decide_eq_true_eq]
      exact ⟨h.1, ih h.2⟩
    · simp only [List.filter_cons, hp]
      exact Memory.wfFrom_mono (ih h.2) (by omega)

theorem Memory.wf_zeroRange {m : Memory} (h : m.wf = true) (lo hi : Nat) : (m.zeroRange lo hi).wf = true :=
  Memory.wfFrom_filter _ h

/-- A byte read after a range was zeroed. -/
theorem Memory.get_zeroRange (m : Memory) (lo hi x : Nat) :
    (m.zeroRange lo hi).get x = if lo ≤ x ∧ x < hi then Memory.unlisted else m.get x := by
  unfold Memory.zeroRange
  induction m with
  | nil => simp [Memory.get]
  | cons c m ih =>
    by_cases hc : c.1 < lo ∨ hi ≤ c.1
    · have hp : (decide (c.1 < lo) || decide (hi ≤ c.1)) = true := by simpa using hc
      simp only [List.filter_cons, hp, if_true, Memory.get, ih]
      by_cases hx : c.1 = x
      · rw [if_pos hx, if_pos hx, if_neg (by omega)]
      · rw [if_neg hx, if_neg hx]
    · have hp : ¬ (decide (c.1 < lo) || decide (hi ≤ c.1)) = true := by simpa using hc
      simp only [List.filter_cons, hp, Memory.get]
      by_cases hx : c.1 = x
      · have hin : lo ≤ x ∧ x < hi := by omega
        simp only [hx, hin, if_true, and_self] at ih ⊢
        simpa using ih
      · simp only [hx, if_false]
        simpa using ih

/-- A word read outside a zeroed range. -/
theorem Memory.getWord_zeroRange_other (m : Memory) {lo hi x : Nat} (hd : x + 4 ≤ lo ∨ hi ≤ x) :
    (m.zeroRange lo hi).getWord x = m.getWord x := by
  refine Memory.getWord_congr (fun k hk => ?_)
  rw [Memory.get_zeroRange, if_neg (by omega)]

/-- A word read inside a zeroed range. -/
theorem Memory.getWord_zeroRange_inside (m : Memory) {lo hi x : Nat} (h1 : lo ≤ x) (h2 : x + 4 ≤ hi) :
    (m.zeroRange lo hi).getWord x = 0#32 := by
  unfold Memory.getWord
  simp only [Memory.get_zeroRange]
  rw [if_pos (by omega), if_pos (by omega), if_pos (by omega), if_pos (by omega)]
  rfl

theorem Memory.wf_setWords {m : Memory} (h : m.wf = true) (a : Nat) (vs : List Word) : (m.setWords a vs).wf = true := by
  induction vs generalizing m a with
  | nil => exact h
  | cons v vs ih => exact ih (Memory.wf_setWord h a v) (a + 4)

/-- A byte read outside a run of words. -/
theorem Memory.get_setWords_other {m : Memory} (h : m.wf = true) (a : Nat) (vs : List Word) {x : Nat}
    (hd : x < a ∨ a + 4 * vs.length ≤ x) : (m.setWords a vs).get x = m.get x := by
  induction vs generalizing m a with
  | nil => rfl
  | cons v vs ih =>
    simp only [List.length_cons] at hd
    rw [Memory.setWords, ih (Memory.wf_setWord h a v) (a + 4) (by omega), Memory.get_setWord h, if_neg (by omega)]

/-- A word read inside a run of words. -/
theorem Memory.getWord_setWords {m : Memory} (h : m.wf = true) (a : Nat) (vs : List Word) (k : Nat) (hk : k < vs.length) :
    (m.setWords a vs).getWord (a + 4 * k) = vs[k] := by
  induction vs generalizing m a k with
  | nil => simp at hk
  | cons v vs ih =>
    cases k with
    | zero =>
      have : ((m.setWord a v).setWords (a + 4) vs).getWord a = (m.setWord a v).getWord a :=
        Memory.getWord_congr (fun k hk => Memory.get_setWords_other (Memory.wf_setWord h a v) _ _ (by omega))
      simpa [Memory.setWords, this] using Memory.getWord_setWord_same h a v
    | succ k =>
      have e : a + 4 * (k + 1) = a + 4 + 4 * k := by omega
      rw [Memory.setWords, e, ih (Memory.wf_setWord h a v) (a + 4) k (by simpa using hk)]
      simp

/-! ### Nodes and codes -/

theorem Memory.wf_setNode {m : Memory} (h : m.wf = true) (i : Nat) (nd : Node) : (m.setNode i nd).wf = true :=
  Memory.wf_setWord (Memory.wf_setWord h _ _) _ _

theorem Memory.wf_setNodes {m : Memory} (h : m.wf = true) (i : Nat) (nds : List Node) : (m.setNodes i nds).wf = true := by
  induction nds generalizing m i with
  | nil => exact h
  | cons nd nds ih => exact ih (Memory.wf_setNode h i nd) (i + 1)

/-- A byte read outside the entries a run of nodes is stored to. -/
theorem Memory.get_setNodes_other {m : Memory} (h : m.wf = true) (i : Nat) (nds : List Node) {x : Nat}
    (hd : x < nodeAddr i ∨ nodeAddr (i + nds.length) ≤ x) : (m.setNodes i nds).get x = m.get x := by
  induction nds generalizing m i with
  | nil => rfl
  | cons nd nds ih =>
    simp only [nodeAddr, List.length_cons] at hd
    have hrest : x < nodeAddr (i + 1) ∨ nodeAddr (i + 1 + nds.length) ≤ x := by simp only [nodeAddr]; omega
    have h1 : ¬(nodeAddr i + 4 ≤ x ∧ x < nodeAddr i + 4 + 4) := by simp only [nodeAddr]; omega
    have h2 : ¬(nodeAddr i ≤ x ∧ x < nodeAddr i + 4) := by simp only [nodeAddr]; omega
    rw [Memory.setNodes, ih (Memory.wf_setNode h i nd) (i + 1) hrest, Memory.setNode,
      Memory.get_setWord (Memory.wf_setWord h _ _), Memory.get_setWord h, if_neg h1, if_neg h2]

/-- The two words of an entry of a stored run of nodes. -/
theorem Memory.getWord_setNodes {m : Memory} (h : m.wf = true) (i : Nat) (nds : List Node) (k : Nat) (hk : k < nds.length) :
    (m.setNodes i nds).getWord (nodeAddr (i + k)) = (nds[k]).freq ∧
      (m.setNodes i nds).getWord (nodeAddr (i + k) + 4) = (nds[k]).link := by
  induction nds generalizing m i k with
  | nil => simp at hk
  | cons nd nds ih =>
    cases k with
    | zero =>
      have hw := Memory.wf_setNode h i nd
      have hfar : ∀ x, x < nodeAddr (i + 1) → ((m.setNode i nd).setNodes (i + 1) nds).get x = (m.setNode i nd).get x :=
        fun x hx => Memory.get_setNodes_other hw (i + 1) nds (Or.inl hx)
      have e1 : ((m.setNode i nd).setNodes (i + 1) nds).getWord (nodeAddr i) = (m.setNode i nd).getWord (nodeAddr i) :=
        Memory.getWord_congr (fun k hk => hfar _ (by simp only [nodeAddr]; omega))
      have e2 : ((m.setNode i nd).setNodes (i + 1) nds).getWord (nodeAddr i + 4) =
          (m.setNode i nd).getWord (nodeAddr i + 4) :=
        Memory.getWord_congr (fun k hk => hfar _ (by simp only [nodeAddr]; omega))
      have hf : (m.setNode i nd).getWord (nodeAddr i) = nd.freq := by
        rw [Memory.setNode, Memory.getWord_setWord_other (Memory.wf_setWord h _ _) _ (by omega),
          Memory.getWord_setWord_same h]
      have hl : (m.setNode i nd).getWord (nodeAddr i + 4) = nd.link :=
        Memory.getWord_setWord_same (Memory.wf_setWord h _ _) _ _
      simp only [Nat.add_zero, Memory.setNodes, e1, e2, hf, hl, List.getElem_cons_zero, and_self]
    | succ k =>
      have e : i + (k + 1) = i + 1 + k := by omega
      rw [e, Memory.setNodes]
      simpa using ih (Memory.wf_setNode h i nd) (i + 1) k (by simpa using hk)

theorem Memory.wf_storeCode {m : Memory} (h : m.wf = true) (sym : Byte) (c : Code) : (m.storeCode sym c).wf = true :=
  Memory.wf_setWords h _ _

theorem Memory.wf_clearCodes {m : Memory} (h : m.wf = true) : m.clearCodes.wf = true :=
  Memory.wf_zeroRange h _ _

/-- Bit 31 - j of BITS[w] is code bit 32w + j (R40). -/
theorem packBits_bit (c : Code) (w j : Nat) (hj : j < 32) :
    (packBits c w).getLsbD (31 - j) = c.getD (32 * w + j) false := by
  have hb : 31 - j < 32 := by omega
  have e : 31 - (31 - j) = j := by omega
  rw [packBits, BitVec.getLsbD_ofFnLE]
  simp [hb, e]

/-! ### The LINK word's fields -/

theorem linkLeaf_link (nd : Node) : linkLeaf nd.link = nd.leaf := by
  obtain ⟨f, l, sy, r, le⟩ := nd
  cases l <;> simp [linkLeaf, Node.link]

theorem linkLeft_link (nd : Node) : linkLeft nd.link = nd.left := by
  unfold linkLeft Node.link
  ext i hi
  have h1 : i < 18 := by omega
  have h2 : i < 31 := by omega
  have h3 : i < 32 := by omega
  simp [hi, h1, h2, h3]

theorem linkRight_link (nd : Node) : linkRight nd.link = nd.right := by
  unfold linkRight Node.link
  ext i hi
  have h1 : 9 + i < 18 := by omega
  have h2 : 9 + i < 31 := by omega
  have h3 : 9 + i < 32 := by omega
  simp [h1, h2, h3, BitVec.getLsbD_eq_getElem hi]

theorem linkSym_link (nd : Node) : linkSym nd.link = nd.sym := by
  unfold linkSym Node.link
  ext i hi
  have h1 : 18 + i < 31 := by omega
  have h2 : 18 + i < 32 := by omega
  have h3 : 9 ≤ 18 + i - 9 := by omega
  have h4 : 9 ≤ 18 + i := by omega
  simp [h1, h2, BitVec.getLsbD_eq_getElem hi, BitVec.getLsbD_of_ge _ _ h3, BitVec.getLsbD_of_ge _ _ h4]

theorem linkReserved_link (nd : Node) : linkReserved nd.link = 0#5 := by
  unfold linkReserved Node.link
  ext i hi
  have h1 : 26 + i < 31 := by omega
  have h2 : 8 ≤ 26 + i - 18 := by omega
  have h3 : 9 ≤ 26 + i - 9 := by omega
  have h4 : 9 ≤ 26 + i := by omega
  simp [h1, BitVec.getLsbD_of_ge _ _ h2, BitVec.getLsbD_of_ge _ _ h3, BitVec.getLsbD_of_ge _ _ h4]

/-- A LINK word is its five fields (R38). -/
theorem link_toNat (w : Word) :
    w.toNat = 2 ^ 31 * (linkLeaf w).toNat + 2 ^ 26 * (linkReserved w).toNat + 2 ^ 18 * (linkSym w).toNat +
      2 ^ 9 * (linkRight w).toNat + (linkLeft w).toNat := by
  have hw := w.isLt
  have hl : (linkLeaf w).toNat = w.toNat / 2 ^ 31 % 2 := by
    simp only [linkLeaf, BitVec.getLsbD, Nat.testBit_eq_decide_div_mod_eq]
    rcases Nat.mod_two_eq_zero_or_one (w.toNat / 2 ^ 31) with h | h <;> rw [h] <;> rfl
  simp only [hl, linkReserved, linkSym, linkRight, linkLeft, BitVec.extractLsb'_toNat, Nat.shiftRight_eq_div_pow]
  omega

end Sys2Proof.Machine
end

