-- ==== Sys2Proof/Laws/State.lean ====
section
/-! SUPPORT. What each update of the state leaves in each field: one lemma per field and update, true by rfl. -/

namespace Sys2Proof.Machine

variable (s : State)

/-! ### State.complete -/

@[simp] theorem State.complete_ieErr : (s.complete).ieErr = s.ieErr := rfl
@[simp] theorem State.complete_ieDone : (s.complete).ieDone = s.ieDone := rfl
@[simp] theorem State.complete_decActive : (s.complete).decActive = false := rfl
@[simp] theorem State.complete_single : (s.complete).single = s.single := rfl
@[simp] theorem State.complete_codeValid : (s.complete).codeValid = s.codeValid := rfl
@[simp] theorem State.complete_treeValid : (s.complete).treeValid = s.treeValid := rfl
@[simp] theorem State.complete_cmd : (s.complete).cmd = s.cmd := rfl
@[simp] theorem State.complete_err : (s.complete).err = s.err := rfl
@[simp] theorem State.complete_errFirst : (s.complete).errFirst = s.errFirst := rfl
@[simp] theorem State.complete_errArg : (s.complete).errArg = s.errArg := rfl
@[simp] theorem State.complete_intErr : (s.complete).intErr = s.intErr := rfl
@[simp] theorem State.complete_intDone : (s.complete).intDone = true := rfl
@[simp] theorem State.complete_nsym : (s.complete).nsym = s.nsym := rfl
@[simp] theorem State.complete_nnode : (s.complete).nnode = s.nnode := rfl
@[simp] theorem State.complete_root : (s.complete).root = s.root := rfl
@[simp] theorem State.complete_rootFreq : (s.complete).rootFreq = s.rootFreq := rfl
@[simp] theorem State.complete_maxlen : (s.complete).maxlen = s.maxlen := rfl
@[simp] theorem State.complete_decCount : (s.complete).decCount = s.decCount := rfl
@[simp] theorem State.complete_decBits : (s.complete).decBits = s.decBits := rfl
@[simp] theorem State.complete_decFlags : (s.complete).decFlags = s.decFlags := rfl
@[simp] theorem State.complete_decPtr : (s.complete).decPtr = s.decPtr := rfl
@[simp] theorem State.complete_pend : (s.complete).pend = none := rfl
@[simp] theorem State.complete_dmode : (s.complete).dmode = s.dmode := rfl
@[simp] theorem State.complete_mem : (s.complete).mem = s.mem := rfl
@[simp] theorem State.complete_bitIn : (s.complete).bitIn = s.bitIn := rfl
@[simp] theorem State.complete_symOut : (s.complete).symOut = s.symOut := rfl
@[simp] theorem State.complete_tblOut : (s.complete).tblOut = s.tblOut := rfl
@[simp] theorem State.complete_freqUnwritten : (s.complete).freqUnwritten = s.freqUnwritten := rfl
@[simp] theorem State.complete_epoch : (s.complete).epoch = s.epoch := rfl
@[simp] theorem State.complete_draws : (s.complete).draws = s.draws := rfl
@[simp] theorem State.complete_masters : (s.complete).masters = s.masters := rfl
@[simp] theorem State.complete_source : (s.complete).source = s.source := rfl
@[simp] theorem State.complete_turns : (s.complete).turns = s.turns := rfl

/-! ### State.raise -/

@[simp] theorem State.raise_ieErr (c : Cause) (arg : Word) : (s.raise c arg).ieErr = s.ieErr := rfl
@[simp] theorem State.raise_ieDone (c : Cause) (arg : Word) : (s.raise c arg).ieDone = s.ieDone := rfl
@[simp] theorem State.raise_decActive (c : Cause) (arg : Word) : (s.raise c arg).decActive = s.decActive := rfl
@[simp] theorem State.raise_single (c : Cause) (arg : Word) : (s.raise c arg).single = s.single := rfl
@[simp] theorem State.raise_codeValid (c : Cause) (arg : Word) : (s.raise c arg).codeValid = s.codeValid := rfl
@[simp] theorem State.raise_treeValid (c : Cause) (arg : Word) : (s.raise c arg).treeValid = s.treeValid := rfl
@[simp] theorem State.raise_cmd (c : Cause) (arg : Word) : (s.raise c arg).cmd = s.cmd := rfl
@[simp] theorem State.raise_err (c : Cause) (arg : Word) : (s.raise c arg).err = s.err ||| c.bit := rfl
@[simp] theorem State.raise_errFirst (c : Cause) (arg : Word) : (s.raise c arg).errFirst = if s.err = 0#8 then BitVec.ofNat 4 (c.number + 1) else s.errFirst := rfl
@[simp] theorem State.raise_errArg (c : Cause) (arg : Word) : (s.raise c arg).errArg = if s.err = 0#8 then arg else s.errArg := rfl
@[simp] theorem State.raise_intErr (c : Cause) (arg : Word) : (s.raise c arg).intErr = true := rfl
@[simp] theorem State.raise_intDone (c : Cause) (arg : Word) : (s.raise c arg).intDone = s.intDone := rfl
@[simp] theorem State.raise_nsym (c : Cause) (arg : Word) : (s.raise c arg).nsym = s.nsym := rfl
@[simp] theorem State.raise_nnode (c : Cause) (arg : Word) : (s.raise c arg).nnode = s.nnode := rfl
@[simp] theorem State.raise_root (c : Cause) (arg : Word) : (s.raise c arg).root = s.root := rfl
@[simp] theorem State.raise_rootFreq (c : Cause) (arg : Word) : (s.raise c arg).rootFreq = s.rootFreq := rfl
@[simp] theorem State.raise_maxlen (c : Cause) (arg : Word) : (s.raise c arg).maxlen = s.maxlen := rfl
@[simp] theorem State.raise_decCount (c : Cause) (arg : Word) : (s.raise c arg).decCount = s.decCount := rfl
@[simp] theorem State.raise_decBits (c : Cause) (arg : Word) : (s.raise c arg).decBits = s.decBits := rfl
@[simp] theorem State.raise_decFlags (c : Cause) (arg : Word) : (s.raise c arg).decFlags = s.decFlags := rfl
@[simp] theorem State.raise_decPtr (c : Cause) (arg : Word) : (s.raise c arg).decPtr = s.decPtr := rfl
@[simp] theorem State.raise_pend (c : Cause) (arg : Word) : (s.raise c arg).pend = s.pend := rfl
@[simp] theorem State.raise_dmode (c : Cause) (arg : Word) : (s.raise c arg).dmode = s.dmode := rfl
@[simp] theorem State.raise_mem (c : Cause) (arg : Word) : (s.raise c arg).mem = s.mem := rfl
@[simp] theorem State.raise_bitIn (c : Cause) (arg : Word) : (s.raise c arg).bitIn = s.bitIn := rfl
@[simp] theorem State.raise_symOut (c : Cause) (arg : Word) : (s.raise c arg).symOut = s.symOut := rfl
@[simp] theorem State.raise_tblOut (c : Cause) (arg : Word) : (s.raise c arg).tblOut = s.tblOut := rfl
@[simp] theorem State.raise_freqUnwritten (c : Cause) (arg : Word) : (s.raise c arg).freqUnwritten = s.freqUnwritten := rfl
@[simp] theorem State.raise_epoch (c : Cause) (arg : Word) : (s.raise c arg).epoch = s.epoch := rfl
@[simp] theorem State.raise_draws (c : Cause) (arg : Word) : (s.raise c arg).draws = s.draws := rfl
@[simp] theorem State.raise_masters (c : Cause) (arg : Word) : (s.raise c arg).masters = s.masters := rfl
@[simp] theorem State.raise_source (c : Cause) (arg : Word) : (s.raise c arg).source = s.source := rfl
@[simp] theorem State.raise_turns (c : Cause) (arg : Word) : (s.raise c arg).turns = s.turns := rfl

/-! ### State.fail -/

@[simp] theorem State.fail_ieErr (c : Cause) (arg : Word) : (s.fail c arg).ieErr = s.ieErr := rfl
@[simp] theorem State.fail_ieDone (c : Cause) (arg : Word) : (s.fail c arg).ieDone = s.ieDone := rfl
@[simp] theorem State.fail_decActive (c : Cause) (arg : Word) : (s.fail c arg).decActive = false := rfl
@[simp] theorem State.fail_single (c : Cause) (arg : Word) : (s.fail c arg).single = s.single := rfl
@[simp] theorem State.fail_codeValid (c : Cause) (arg : Word) : (s.fail c arg).codeValid = s.codeValid := rfl
@[simp] theorem State.fail_treeValid (c : Cause) (arg : Word) : (s.fail c arg).treeValid = s.treeValid := rfl
@[simp] theorem State.fail_cmd (c : Cause) (arg : Word) : (s.fail c arg).cmd = s.cmd := rfl
@[simp] theorem State.fail_err (c : Cause) (arg : Word) : (s.fail c arg).err = s.err ||| c.bit := rfl
@[simp] theorem State.fail_errFirst (c : Cause) (arg : Word) : (s.fail c arg).errFirst = if s.err = 0#8 then BitVec.ofNat 4 (c.number + 1) else s.errFirst := rfl
@[simp] theorem State.fail_errArg (c : Cause) (arg : Word) : (s.fail c arg).errArg = if s.err = 0#8 then arg else s.errArg := rfl
@[simp] theorem State.fail_intErr (c : Cause) (arg : Word) : (s.fail c arg).intErr = true := rfl
@[simp] theorem State.fail_intDone (c : Cause) (arg : Word) : (s.fail c arg).intDone = true := rfl
@[simp] theorem State.fail_nsym (c : Cause) (arg : Word) : (s.fail c arg).nsym = s.nsym := rfl
@[simp] theorem State.fail_nnode (c : Cause) (arg : Word) : (s.fail c arg).nnode = s.nnode := rfl
@[simp] theorem State.fail_root (c : Cause) (arg : Word) : (s.fail c arg).root = s.root := rfl
@[simp] theorem State.fail_rootFreq (c : Cause) (arg : Word) : (s.fail c arg).rootFreq = s.rootFreq := rfl
@[simp] theorem State.fail_maxlen (c : Cause) (arg : Word) : (s.fail c arg).maxlen = s.maxlen := rfl
@[simp] theorem State.fail_decCount (c : Cause) (arg : Word) : (s.fail c arg).decCount = s.decCount := rfl
@[simp] theorem State.fail_decBits (c : Cause) (arg : Word) : (s.fail c arg).decBits = s.decBits := rfl
@[simp] theorem State.fail_decFlags (c : Cause) (arg : Word) : (s.fail c arg).decFlags = s.decFlags := rfl
@[simp] theorem State.fail_decPtr (c : Cause) (arg : Word) : (s.fail c arg).decPtr = s.decPtr := rfl
@[simp] theorem State.fail_pend (c : Cause) (arg : Word) : (s.fail c arg).pend = none := rfl
@[simp] theorem State.fail_dmode (c : Cause) (arg : Word) : (s.fail c arg).dmode = s.dmode := rfl
@[simp] theorem State.fail_mem (c : Cause) (arg : Word) : (s.fail c arg).mem = s.mem := rfl
@[simp] theorem State.fail_bitIn (c : Cause) (arg : Word) : (s.fail c arg).bitIn = s.bitIn := rfl
@[simp] theorem State.fail_symOut (c : Cause) (arg : Word) : (s.fail c arg).symOut = s.symOut := rfl
@[simp] theorem State.fail_tblOut (c : Cause) (arg : Word) : (s.fail c arg).tblOut = s.tblOut := rfl
@[simp] theorem State.fail_freqUnwritten (c : Cause) (arg : Word) : (s.fail c arg).freqUnwritten = s.freqUnwritten := rfl
@[simp] theorem State.fail_epoch (c : Cause) (arg : Word) : (s.fail c arg).epoch = s.epoch := rfl
@[simp] theorem State.fail_draws (c : Cause) (arg : Word) : (s.fail c arg).draws = s.draws := rfl
@[simp] theorem State.fail_masters (c : Cause) (arg : Word) : (s.fail c arg).masters = s.masters := rfl
@[simp] theorem State.fail_source (c : Cause) (arg : Word) : (s.fail c arg).source = s.source := rfl
@[simp] theorem State.fail_turns (c : Cause) (arg : Word) : (s.fail c arg).turns = s.turns := rfl

/-! ### State.dropTree -/

@[simp] theorem State.dropTree_ieErr : (s.dropTree).ieErr = s.ieErr := rfl
@[simp] theorem State.dropTree_ieDone : (s.dropTree).ieDone = s.ieDone := rfl
@[simp] theorem State.dropTree_decActive : (s.dropTree).decActive = s.decActive := rfl
@[simp] theorem State.dropTree_single : (s.dropTree).single = false := rfl
@[simp] theorem State.dropTree_codeValid : (s.dropTree).codeValid = false := rfl
@[simp] theorem State.dropTree_treeValid : (s.dropTree).treeValid = false := rfl
@[simp] theorem State.dropTree_cmd : (s.dropTree).cmd = s.cmd := rfl
@[simp] theorem State.dropTree_err : (s.dropTree).err = s.err := rfl
@[simp] theorem State.dropTree_errFirst : (s.dropTree).errFirst = s.errFirst := rfl
@[simp] theorem State.dropTree_errArg : (s.dropTree).errArg = s.errArg := rfl
@[simp] theorem State.dropTree_intErr : (s.dropTree).intErr = s.intErr := rfl
@[simp] theorem State.dropTree_intDone : (s.dropTree).intDone = s.intDone := rfl
@[simp] theorem State.dropTree_nsym : (s.dropTree).nsym = 0#9 := rfl
@[simp] theorem State.dropTree_nnode : (s.dropTree).nnode = 0#9 := rfl
@[simp] theorem State.dropTree_root : (s.dropTree).root = 0#9 := rfl
@[simp] theorem State.dropTree_rootFreq : (s.dropTree).rootFreq = 0#32 := rfl
@[simp] theorem State.dropTree_maxlen : (s.dropTree).maxlen = 0#8 := rfl
@[simp] theorem State.dropTree_decCount : (s.dropTree).decCount = s.decCount := rfl
@[simp] theorem State.dropTree_decBits : (s.dropTree).decBits = s.decBits := rfl
@[simp] theorem State.dropTree_decFlags : (s.dropTree).decFlags = s.decFlags := rfl
@[simp] theorem State.dropTree_decPtr : (s.dropTree).decPtr = s.decPtr := rfl
@[simp] theorem State.dropTree_pend : (s.dropTree).pend = s.pend := rfl
@[simp] theorem State.dropTree_dmode : (s.dropTree).dmode = s.dmode := rfl
@[simp] theorem State.dropTree_mem : (s.dropTree).mem = s.mem := rfl
@[simp] theorem State.dropTree_bitIn : (s.dropTree).bitIn = s.bitIn := rfl
@[simp] theorem State.dropTree_symOut : (s.dropTree).symOut = s.symOut := rfl
@[simp] theorem State.dropTree_tblOut : (s.dropTree).tblOut = s.tblOut := rfl
@[simp] theorem State.dropTree_freqUnwritten : (s.dropTree).freqUnwritten = s.freqUnwritten := rfl
@[simp] theorem State.dropTree_epoch : (s.dropTree).epoch = s.epoch := rfl
@[simp] theorem State.dropTree_draws : (s.dropTree).draws = s.draws := rfl
@[simp] theorem State.dropTree_masters : (s.dropTree).masters = s.masters := rfl
@[simp] theorem State.dropTree_source : (s.dropTree).source = s.source := rfl
@[simp] theorem State.dropTree_turns : (s.dropTree).turns = s.turns := rfl

/-! ### State.zeroFreq -/

@[simp] theorem State.zeroFreq_ieErr : (s.zeroFreq).ieErr = s.ieErr := rfl
@[simp] theorem State.zeroFreq_ieDone : (s.zeroFreq).ieDone = s.ieDone := rfl
@[simp] theorem State.zeroFreq_decActive : (s.zeroFreq).decActive = s.decActive := rfl
@[simp] theorem State.zeroFreq_single : (s.zeroFreq).single = s.single := rfl
@[simp] theorem State.zeroFreq_codeValid : (s.zeroFreq).codeValid = s.codeValid := rfl
@[simp] theorem State.zeroFreq_treeValid : (s.zeroFreq).treeValid = s.treeValid := rfl
@[simp] theorem State.zeroFreq_cmd : (s.zeroFreq).cmd = s.cmd := rfl
@[simp] theorem State.zeroFreq_err : (s.zeroFreq).err = s.err := rfl
@[simp] theorem State.zeroFreq_errFirst : (s.zeroFreq).errFirst = s.errFirst := rfl
@[simp] theorem State.zeroFreq_errArg : (s.zeroFreq).errArg = s.errArg := rfl
@[simp] theorem State.zeroFreq_intErr : (s.zeroFreq).intErr = s.intErr := rfl
@[simp] theorem State.zeroFreq_intDone : (s.zeroFreq).intDone = s.intDone := rfl
@[simp] theorem State.zeroFreq_nsym : (s.zeroFreq).nsym = s.nsym := rfl
@[simp] theorem State.zeroFreq_nnode : (s.zeroFreq).nnode = s.nnode := rfl
@[simp] theorem State.zeroFreq_root : (s.zeroFreq).root = s.root := rfl
@[simp] theorem State.zeroFreq_rootFreq : (s.zeroFreq).rootFreq = s.rootFreq := rfl
@[simp] theorem State.zeroFreq_maxlen : (s.zeroFreq).maxlen = s.maxlen := rfl
@[simp] theorem State.zeroFreq_decCount : (s.zeroFreq).decCount = s.decCount := rfl
@[simp] theorem State.zeroFreq_decBits : (s.zeroFreq).decBits = s.decBits := rfl
@[simp] theorem State.zeroFreq_decFlags : (s.zeroFreq).decFlags = s.decFlags := rfl
@[simp] theorem State.zeroFreq_decPtr : (s.zeroFreq).decPtr = s.decPtr := rfl
@[simp] theorem State.zeroFreq_pend : (s.zeroFreq).pend = s.pend := rfl
@[simp] theorem State.zeroFreq_dmode : (s.zeroFreq).dmode = s.dmode := rfl
@[simp] theorem State.zeroFreq_mem : (s.zeroFreq).mem = s.mem.zeroRange 0x400 0x800 := rfl
@[simp] theorem State.zeroFreq_bitIn : (s.zeroFreq).bitIn = s.bitIn := rfl
@[simp] theorem State.zeroFreq_symOut : (s.zeroFreq).symOut = s.symOut := rfl
@[simp] theorem State.zeroFreq_tblOut : (s.zeroFreq).tblOut = s.tblOut := rfl
@[simp] theorem State.zeroFreq_freqUnwritten : (s.zeroFreq).freqUnwritten = [] := rfl
@[simp] theorem State.zeroFreq_epoch : (s.zeroFreq).epoch = s.epoch := rfl
@[simp] theorem State.zeroFreq_draws : (s.zeroFreq).draws = s.draws := rfl
@[simp] theorem State.zeroFreq_masters : (s.zeroFreq).masters = s.masters := rfl
@[simp] theorem State.zeroFreq_source : (s.zeroFreq).source = s.source := rfl
@[simp] theorem State.zeroFreq_turns : (s.zeroFreq).turns = s.turns := rfl

/-! ### State.setFreq -/

@[simp] theorem State.setFreq_ieErr (sym : Byte) (v : Word) : (s.setFreq sym v).ieErr = s.ieErr := rfl
@[simp] theorem State.setFreq_ieDone (sym : Byte) (v : Word) : (s.setFreq sym v).ieDone = s.ieDone := rfl
@[simp] theorem State.setFreq_decActive (sym : Byte) (v : Word) : (s.setFreq sym v).decActive = s.decActive := rfl
@[simp] theorem State.setFreq_single (sym : Byte) (v : Word) : (s.setFreq sym v).single = s.single := rfl
@[simp] theorem State.setFreq_codeValid (sym : Byte) (v : Word) : (s.setFreq sym v).codeValid = s.codeValid := rfl
@[simp] theorem State.setFreq_treeValid (sym : Byte) (v : Word) : (s.setFreq sym v).treeValid = s.treeValid := rfl
@[simp] theorem State.setFreq_cmd (sym : Byte) (v : Word) : (s.setFreq sym v).cmd = s.cmd := rfl
@[simp] theorem State.setFreq_err (sym : Byte) (v : Word) : (s.setFreq sym v).err = s.err := rfl
@[simp] theorem State.setFreq_errFirst (sym : Byte) (v : Word) : (s.setFreq sym v).errFirst = s.errFirst := rfl
@[simp] theorem State.setFreq_errArg (sym : Byte) (v : Word) : (s.setFreq sym v).errArg = s.errArg := rfl
@[simp] theorem State.setFreq_intErr (sym : Byte) (v : Word) : (s.setFreq sym v).intErr = s.intErr := rfl
@[simp] theorem State.setFreq_intDone (sym : Byte) (v : Word) : (s.setFreq sym v).intDone = s.intDone := rfl
@[simp] theorem State.setFreq_nsym (sym : Byte) (v : Word) : (s.setFreq sym v).nsym = s.nsym := rfl
@[simp] theorem State.setFreq_nnode (sym : Byte) (v : Word) : (s.setFreq sym v).nnode = s.nnode := rfl
@[simp] theorem State.setFreq_root (sym : Byte) (v : Word) : (s.setFreq sym v).root = s.root := rfl
@[simp] theorem State.setFreq_rootFreq (sym : Byte) (v : Word) : (s.setFreq sym v).rootFreq = s.rootFreq := rfl
@[simp] theorem State.setFreq_maxlen (sym : Byte) (v : Word) : (s.setFreq sym v).maxlen = s.maxlen := rfl
@[simp] theorem State.setFreq_decCount (sym : Byte) (v : Word) : (s.setFreq sym v).decCount = s.decCount := rfl
@[simp] theorem State.setFreq_decBits (sym : Byte) (v : Word) : (s.setFreq sym v).decBits = s.decBits := rfl
@[simp] theorem State.setFreq_decFlags (sym : Byte) (v : Word) : (s.setFreq sym v).decFlags = s.decFlags := rfl
@[simp] theorem State.setFreq_decPtr (sym : Byte) (v : Word) : (s.setFreq sym v).decPtr = s.decPtr := rfl
@[simp] theorem State.setFreq_pend (sym : Byte) (v : Word) : (s.setFreq sym v).pend = s.pend := rfl
@[simp] theorem State.setFreq_dmode (sym : Byte) (v : Word) : (s.setFreq sym v).dmode = s.dmode := rfl
@[simp] theorem State.setFreq_mem (sym : Byte) (v : Word) : (s.setFreq sym v).mem = s.mem.setWord (freqAddr sym) v := rfl
@[simp] theorem State.setFreq_bitIn (sym : Byte) (v : Word) : (s.setFreq sym v).bitIn = s.bitIn := rfl
@[simp] theorem State.setFreq_symOut (sym : Byte) (v : Word) : (s.setFreq sym v).symOut = s.symOut := rfl
@[simp] theorem State.setFreq_tblOut (sym : Byte) (v : Word) : (s.setFreq sym v).tblOut = s.tblOut := rfl
@[simp] theorem State.setFreq_freqUnwritten (sym : Byte) (v : Word) : (s.setFreq sym v).freqUnwritten = s.freqUnwritten.filter (fun x => x != sym) := rfl
@[simp] theorem State.setFreq_epoch (sym : Byte) (v : Word) : (s.setFreq sym v).epoch = s.epoch := rfl
@[simp] theorem State.setFreq_draws (sym : Byte) (v : Word) : (s.setFreq sym v).draws = s.draws := rfl
@[simp] theorem State.setFreq_masters (sym : Byte) (v : Word) : (s.setFreq sym v).masters = s.masters := rfl
@[simp] theorem State.setFreq_source (sym : Byte) (v : Word) : (s.setFreq sym v).source = s.source := rfl
@[simp] theorem State.setFreq_turns (sym : Byte) (v : Word) : (s.setFreq sym v).turns = s.turns := rfl

/-! ### State.writeErr -/

@[simp] theorem State.writeErr_ieErr (v : Word) : (s.writeErr v).ieErr = s.ieErr := rfl
@[simp] theorem State.writeErr_ieDone (v : Word) : (s.writeErr v).ieDone = s.ieDone := rfl
@[simp] theorem State.writeErr_decActive (v : Word) : (s.writeErr v).decActive = s.decActive := rfl
@[simp] theorem State.writeErr_single (v : Word) : (s.writeErr v).single = s.single := rfl
@[simp] theorem State.writeErr_codeValid (v : Word) : (s.writeErr v).codeValid = s.codeValid := rfl
@[simp] theorem State.writeErr_treeValid (v : Word) : (s.writeErr v).treeValid = s.treeValid := rfl
@[simp] theorem State.writeErr_cmd (v : Word) : (s.writeErr v).cmd = s.cmd := rfl
@[simp] theorem State.writeErr_err (v : Word) : (s.writeErr v).err = s.err &&& ~~~(v.extractLsb' 0 8) := rfl
@[simp] theorem State.writeErr_errFirst (v : Word) : (s.writeErr v).errFirst = if s.err &&& ~~~(v.extractLsb' 0 8) = 0#8 then 0#4 else s.errFirst := rfl
@[simp] theorem State.writeErr_errArg (v : Word) : (s.writeErr v).errArg = if s.err &&& ~~~(v.extractLsb' 0 8) = 0#8 then 0#32 else s.errArg := rfl
@[simp] theorem State.writeErr_intErr (v : Word) : (s.writeErr v).intErr = s.intErr := rfl
@[simp] theorem State.writeErr_intDone (v : Word) : (s.writeErr v).intDone = s.intDone := rfl
@[simp] theorem State.writeErr_nsym (v : Word) : (s.writeErr v).nsym = s.nsym := rfl
@[simp] theorem State.writeErr_nnode (v : Word) : (s.writeErr v).nnode = s.nnode := rfl
@[simp] theorem State.writeErr_root (v : Word) : (s.writeErr v).root = s.root := rfl
@[simp] theorem State.writeErr_rootFreq (v : Word) : (s.writeErr v).rootFreq = s.rootFreq := rfl
@[simp] theorem State.writeErr_maxlen (v : Word) : (s.writeErr v).maxlen = s.maxlen := rfl
@[simp] theorem State.writeErr_decCount (v : Word) : (s.writeErr v).decCount = s.decCount := rfl
@[simp] theorem State.writeErr_decBits (v : Word) : (s.writeErr v).decBits = s.decBits := rfl
@[simp] theorem State.writeErr_decFlags (v : Word) : (s.writeErr v).decFlags = s.decFlags := rfl
@[simp] theorem State.writeErr_decPtr (v : Word) : (s.writeErr v).decPtr = s.decPtr := rfl
@[simp] theorem State.writeErr_pend (v : Word) : (s.writeErr v).pend = s.pend := rfl
@[simp] theorem State.writeErr_dmode (v : Word) : (s.writeErr v).dmode = s.dmode := rfl
@[simp] theorem State.writeErr_mem (v : Word) : (s.writeErr v).mem = s.mem := rfl
@[simp] theorem State.writeErr_bitIn (v : Word) : (s.writeErr v).bitIn = s.bitIn := rfl
@[simp] theorem State.writeErr_symOut (v : Word) : (s.writeErr v).symOut = s.symOut := rfl
@[simp] theorem State.writeErr_tblOut (v : Word) : (s.writeErr v).tblOut = s.tblOut := rfl
@[simp] theorem State.writeErr_freqUnwritten (v : Word) : (s.writeErr v).freqUnwritten = s.freqUnwritten := rfl
@[simp] theorem State.writeErr_epoch (v : Word) : (s.writeErr v).epoch = s.epoch := rfl
@[simp] theorem State.writeErr_draws (v : Word) : (s.writeErr v).draws = s.draws := rfl
@[simp] theorem State.writeErr_masters (v : Word) : (s.writeErr v).masters = s.masters := rfl
@[simp] theorem State.writeErr_source (v : Word) : (s.writeErr v).source = s.source := rfl
@[simp] theorem State.writeErr_turns (v : Word) : (s.writeErr v).turns = s.turns := rfl

/-! ### State.writeIntPend -/

@[simp] theorem State.writeIntPend_ieErr (v : Word) : (s.writeIntPend v).ieErr = s.ieErr := rfl
@[simp] theorem State.writeIntPend_ieDone (v : Word) : (s.writeIntPend v).ieDone = s.ieDone := rfl
@[simp] theorem State.writeIntPend_decActive (v : Word) : (s.writeIntPend v).decActive = s.decActive := rfl
@[simp] theorem State.writeIntPend_single (v : Word) : (s.writeIntPend v).single = s.single := rfl
@[simp] theorem State.writeIntPend_codeValid (v : Word) : (s.writeIntPend v).codeValid = s.codeValid := rfl
@[simp] theorem State.writeIntPend_treeValid (v : Word) : (s.writeIntPend v).treeValid = s.treeValid := rfl
@[simp] theorem State.writeIntPend_cmd (v : Word) : (s.writeIntPend v).cmd = s.cmd := rfl
@[simp] theorem State.writeIntPend_err (v : Word) : (s.writeIntPend v).err = s.err := rfl
@[simp] theorem State.writeIntPend_errFirst (v : Word) : (s.writeIntPend v).errFirst = s.errFirst := rfl
@[simp] theorem State.writeIntPend_errArg (v : Word) : (s.writeIntPend v).errArg = s.errArg := rfl
@[simp] theorem State.writeIntPend_intErr (v : Word) : (s.writeIntPend v).intErr = (s.intErr && !v.getLsbD 1) := rfl
@[simp] theorem State.writeIntPend_intDone (v : Word) : (s.writeIntPend v).intDone = (s.intDone && !v.getLsbD 0) := rfl
@[simp] theorem State.writeIntPend_nsym (v : Word) : (s.writeIntPend v).nsym = s.nsym := rfl
@[simp] theorem State.writeIntPend_nnode (v : Word) : (s.writeIntPend v).nnode = s.nnode := rfl
@[simp] theorem State.writeIntPend_root (v : Word) : (s.writeIntPend v).root = s.root := rfl
@[simp] theorem State.writeIntPend_rootFreq (v : Word) : (s.writeIntPend v).rootFreq = s.rootFreq := rfl
@[simp] theorem State.writeIntPend_maxlen (v : Word) : (s.writeIntPend v).maxlen = s.maxlen := rfl
@[simp] theorem State.writeIntPend_decCount (v : Word) : (s.writeIntPend v).decCount = s.decCount := rfl
@[simp] theorem State.writeIntPend_decBits (v : Word) : (s.writeIntPend v).decBits = s.decBits := rfl
@[simp] theorem State.writeIntPend_decFlags (v : Word) : (s.writeIntPend v).decFlags = s.decFlags := rfl
@[simp] theorem State.writeIntPend_decPtr (v : Word) : (s.writeIntPend v).decPtr = s.decPtr := rfl
@[simp] theorem State.writeIntPend_pend (v : Word) : (s.writeIntPend v).pend = s.pend := rfl
@[simp] theorem State.writeIntPend_dmode (v : Word) : (s.writeIntPend v).dmode = s.dmode := rfl
@[simp] theorem State.writeIntPend_mem (v : Word) : (s.writeIntPend v).mem = s.mem := rfl
@[simp] theorem State.writeIntPend_bitIn (v : Word) : (s.writeIntPend v).bitIn = s.bitIn := rfl
@[simp] theorem State.writeIntPend_symOut (v : Word) : (s.writeIntPend v).symOut = s.symOut := rfl
@[simp] theorem State.writeIntPend_tblOut (v : Word) : (s.writeIntPend v).tblOut = s.tblOut := rfl
@[simp] theorem State.writeIntPend_freqUnwritten (v : Word) : (s.writeIntPend v).freqUnwritten = s.freqUnwritten := rfl
@[simp] theorem State.writeIntPend_epoch (v : Word) : (s.writeIntPend v).epoch = s.epoch := rfl
@[simp] theorem State.writeIntPend_draws (v : Word) : (s.writeIntPend v).draws = s.draws := rfl
@[simp] theorem State.writeIntPend_masters (v : Word) : (s.writeIntPend v).masters = s.masters := rfl
@[simp] theorem State.writeIntPend_source (v : Word) : (s.writeIntPend v).source = s.source := rfl
@[simp] theorem State.writeIntPend_turns (v : Word) : (s.writeIntPend v).turns = s.turns := rfl

/-! ### State.writeCmd -/

@[simp] theorem State.writeCmd_ieErr (v : Word) : (s.writeCmd v).ieErr = s.ieErr := rfl
@[simp] theorem State.writeCmd_ieDone (v : Word) : (s.writeCmd v).ieDone = s.ieDone := rfl
@[simp] theorem State.writeCmd_decActive (v : Word) : (s.writeCmd v).decActive = s.decActive := rfl
@[simp] theorem State.writeCmd_single (v : Word) : (s.writeCmd v).single = s.single := rfl
@[simp] theorem State.writeCmd_codeValid (v : Word) : (s.writeCmd v).codeValid = s.codeValid := rfl
@[simp] theorem State.writeCmd_treeValid (v : Word) : (s.writeCmd v).treeValid = s.treeValid := rfl
@[simp] theorem State.writeCmd_cmd (v : Word) : (s.writeCmd v).cmd = v := rfl
@[simp] theorem State.writeCmd_err (v : Word) : (s.writeCmd v).err = s.err := rfl
@[simp] theorem State.writeCmd_errFirst (v : Word) : (s.writeCmd v).errFirst = s.errFirst := rfl
@[simp] theorem State.writeCmd_errArg (v : Word) : (s.writeCmd v).errArg = s.errArg := rfl
@[simp] theorem State.writeCmd_intErr (v : Word) : (s.writeCmd v).intErr = s.intErr := rfl
@[simp] theorem State.writeCmd_intDone (v : Word) : (s.writeCmd v).intDone = s.intDone := rfl
@[simp] theorem State.writeCmd_nsym (v : Word) : (s.writeCmd v).nsym = s.nsym := rfl
@[simp] theorem State.writeCmd_nnode (v : Word) : (s.writeCmd v).nnode = s.nnode := rfl
@[simp] theorem State.writeCmd_root (v : Word) : (s.writeCmd v).root = s.root := rfl
@[simp] theorem State.writeCmd_rootFreq (v : Word) : (s.writeCmd v).rootFreq = s.rootFreq := rfl
@[simp] theorem State.writeCmd_maxlen (v : Word) : (s.writeCmd v).maxlen = s.maxlen := rfl
@[simp] theorem State.writeCmd_decCount (v : Word) : (s.writeCmd v).decCount = s.decCount := rfl
@[simp] theorem State.writeCmd_decBits (v : Word) : (s.writeCmd v).decBits = s.decBits := rfl
@[simp] theorem State.writeCmd_decFlags (v : Word) : (s.writeCmd v).decFlags = s.decFlags := rfl
@[simp] theorem State.writeCmd_decPtr (v : Word) : (s.writeCmd v).decPtr = s.decPtr := rfl
@[simp] theorem State.writeCmd_pend (v : Word) : (s.writeCmd v).pend = some v := rfl
@[simp] theorem State.writeCmd_dmode (v : Word) : (s.writeCmd v).dmode = s.dmode := rfl
@[simp] theorem State.writeCmd_mem (v : Word) : (s.writeCmd v).mem = s.mem := rfl
@[simp] theorem State.writeCmd_bitIn (v : Word) : (s.writeCmd v).bitIn = s.bitIn := rfl
@[simp] theorem State.writeCmd_symOut (v : Word) : (s.writeCmd v).symOut = s.symOut := rfl
@[simp] theorem State.writeCmd_tblOut (v : Word) : (s.writeCmd v).tblOut = s.tblOut := rfl
@[simp] theorem State.writeCmd_freqUnwritten (v : Word) : (s.writeCmd v).freqUnwritten = s.freqUnwritten := rfl
@[simp] theorem State.writeCmd_epoch (v : Word) : (s.writeCmd v).epoch = s.epoch := rfl
@[simp] theorem State.writeCmd_draws (v : Word) : (s.writeCmd v).draws = s.draws := rfl
@[simp] theorem State.writeCmd_masters (v : Word) : (s.writeCmd v).masters = s.masters := rfl
@[simp] theorem State.writeCmd_source (v : Word) : (s.writeCmd v).source = s.source := rfl
@[simp] theorem State.writeCmd_turns (v : Word) : (s.writeCmd v).turns = s.turns := rfl

/-! ### State.resetRegisters -/

@[simp] theorem State.resetRegisters_ieErr : (s.resetRegisters).ieErr = State.reset.ieErr := rfl
@[simp] theorem State.resetRegisters_ieDone : (s.resetRegisters).ieDone = State.reset.ieDone := rfl
@[simp] theorem State.resetRegisters_decActive : (s.resetRegisters).decActive = State.reset.decActive := rfl
@[simp] theorem State.resetRegisters_single : (s.resetRegisters).single = State.reset.single := rfl
@[simp] theorem State.resetRegisters_codeValid : (s.resetRegisters).codeValid = State.reset.codeValid := rfl
@[simp] theorem State.resetRegisters_treeValid : (s.resetRegisters).treeValid = State.reset.treeValid := rfl
@[simp] theorem State.resetRegisters_cmd : (s.resetRegisters).cmd = State.reset.cmd := rfl
@[simp] theorem State.resetRegisters_err : (s.resetRegisters).err = State.reset.err := rfl
@[simp] theorem State.resetRegisters_errFirst : (s.resetRegisters).errFirst = State.reset.errFirst := rfl
@[simp] theorem State.resetRegisters_errArg : (s.resetRegisters).errArg = State.reset.errArg := rfl
@[simp] theorem State.resetRegisters_intErr : (s.resetRegisters).intErr = State.reset.intErr := rfl
@[simp] theorem State.resetRegisters_intDone : (s.resetRegisters).intDone = State.reset.intDone := rfl
@[simp] theorem State.resetRegisters_nsym : (s.resetRegisters).nsym = State.reset.nsym := rfl
@[simp] theorem State.resetRegisters_nnode : (s.resetRegisters).nnode = State.reset.nnode := rfl
@[simp] theorem State.resetRegisters_root : (s.resetRegisters).root = State.reset.root := rfl
@[simp] theorem State.resetRegisters_rootFreq : (s.resetRegisters).rootFreq = State.reset.rootFreq := rfl
@[simp] theorem State.resetRegisters_maxlen : (s.resetRegisters).maxlen = State.reset.maxlen := rfl
@[simp] theorem State.resetRegisters_decCount : (s.resetRegisters).decCount = State.reset.decCount := rfl
@[simp] theorem State.resetRegisters_decBits : (s.resetRegisters).decBits = State.reset.decBits := rfl
@[simp] theorem State.resetRegisters_decFlags : (s.resetRegisters).decFlags = State.reset.decFlags := rfl
@[simp] theorem State.resetRegisters_decPtr : (s.resetRegisters).decPtr = State.reset.decPtr := rfl
@[simp] theorem State.resetRegisters_pend : (s.resetRegisters).pend = State.reset.pend := rfl
@[simp] theorem State.resetRegisters_dmode : (s.resetRegisters).dmode = State.reset.dmode := rfl
@[simp] theorem State.resetRegisters_mem : (s.resetRegisters).mem = s.mem := rfl
@[simp] theorem State.resetRegisters_bitIn : (s.resetRegisters).bitIn = s.bitIn := rfl
@[simp] theorem State.resetRegisters_symOut : (s.resetRegisters).symOut = s.symOut := rfl
@[simp] theorem State.resetRegisters_tblOut : (s.resetRegisters).tblOut = s.tblOut := rfl
@[simp] theorem State.resetRegisters_freqUnwritten : (s.resetRegisters).freqUnwritten = s.freqUnwritten := rfl
@[simp] theorem State.resetRegisters_epoch : (s.resetRegisters).epoch = s.epoch := rfl
@[simp] theorem State.resetRegisters_draws : (s.resetRegisters).draws = s.draws := rfl
@[simp] theorem State.resetRegisters_masters : (s.resetRegisters).masters = s.masters := rfl
@[simp] theorem State.resetRegisters_source : (s.resetRegisters).source = s.source := rfl
@[simp] theorem State.resetRegisters_turns : (s.resetRegisters).turns = s.turns := rfl

/-! ### State.powerOn -/

@[simp] theorem State.powerOn_ieErr : (s.powerOn).ieErr = State.reset.ieErr := rfl
@[simp] theorem State.powerOn_ieDone : (s.powerOn).ieDone = State.reset.ieDone := rfl
@[simp] theorem State.powerOn_decActive : (s.powerOn).decActive = State.reset.decActive := rfl
@[simp] theorem State.powerOn_single : (s.powerOn).single = State.reset.single := rfl
@[simp] theorem State.powerOn_codeValid : (s.powerOn).codeValid = State.reset.codeValid := rfl
@[simp] theorem State.powerOn_treeValid : (s.powerOn).treeValid = State.reset.treeValid := rfl
@[simp] theorem State.powerOn_cmd : (s.powerOn).cmd = State.reset.cmd := rfl
@[simp] theorem State.powerOn_err : (s.powerOn).err = State.reset.err := rfl
@[simp] theorem State.powerOn_errFirst : (s.powerOn).errFirst = State.reset.errFirst := rfl
@[simp] theorem State.powerOn_errArg : (s.powerOn).errArg = State.reset.errArg := rfl
@[simp] theorem State.powerOn_intErr : (s.powerOn).intErr = State.reset.intErr := rfl
@[simp] theorem State.powerOn_intDone : (s.powerOn).intDone = State.reset.intDone := rfl
@[simp] theorem State.powerOn_nsym : (s.powerOn).nsym = State.reset.nsym := rfl
@[simp] theorem State.powerOn_nnode : (s.powerOn).nnode = State.reset.nnode := rfl
@[simp] theorem State.powerOn_root : (s.powerOn).root = State.reset.root := rfl
@[simp] theorem State.powerOn_rootFreq : (s.powerOn).rootFreq = State.reset.rootFreq := rfl
@[simp] theorem State.powerOn_maxlen : (s.powerOn).maxlen = State.reset.maxlen := rfl
@[simp] theorem State.powerOn_decCount : (s.powerOn).decCount = State.reset.decCount := rfl
@[simp] theorem State.powerOn_decBits : (s.powerOn).decBits = State.reset.decBits := rfl
@[simp] theorem State.powerOn_decFlags : (s.powerOn).decFlags = State.reset.decFlags := rfl
@[simp] theorem State.powerOn_decPtr : (s.powerOn).decPtr = State.reset.decPtr := rfl
@[simp] theorem State.powerOn_pend : (s.powerOn).pend = State.reset.pend := rfl
@[simp] theorem State.powerOn_dmode : (s.powerOn).dmode = State.reset.dmode := rfl
@[simp] theorem State.powerOn_mem : (s.powerOn).mem = State.reset.mem := rfl
@[simp] theorem State.powerOn_bitIn : (s.powerOn).bitIn = State.reset.bitIn := rfl
@[simp] theorem State.powerOn_symOut : (s.powerOn).symOut = State.reset.symOut := rfl
@[simp] theorem State.powerOn_tblOut : (s.powerOn).tblOut = State.reset.tblOut := rfl
@[simp] theorem State.powerOn_freqUnwritten : (s.powerOn).freqUnwritten = State.reset.freqUnwritten := rfl
@[simp] theorem State.powerOn_epoch : (s.powerOn).epoch = s.epoch + 1 := rfl
@[simp] theorem State.powerOn_draws : (s.powerOn).draws = s.draws := rfl
@[simp] theorem State.powerOn_masters : (s.powerOn).masters = s.masters := rfl
@[simp] theorem State.powerOn_source : (s.powerOn).source = s.source := rfl
@[simp] theorem State.powerOn_turns : (s.powerOn).turns = s.turns := rfl

/-! ### State.emitTbl -/

@[simp] theorem State.emitTbl_ieErr (bs : List Byte) : (s.emitTbl bs).ieErr = s.ieErr := rfl
@[simp] theorem State.emitTbl_ieDone (bs : List Byte) : (s.emitTbl bs).ieDone = s.ieDone := rfl
@[simp] theorem State.emitTbl_decActive (bs : List Byte) : (s.emitTbl bs).decActive = s.decActive := rfl
@[simp] theorem State.emitTbl_single (bs : List Byte) : (s.emitTbl bs).single = s.single := rfl
@[simp] theorem State.emitTbl_codeValid (bs : List Byte) : (s.emitTbl bs).codeValid = s.codeValid := rfl
@[simp] theorem State.emitTbl_treeValid (bs : List Byte) : (s.emitTbl bs).treeValid = s.treeValid := rfl
@[simp] theorem State.emitTbl_cmd (bs : List Byte) : (s.emitTbl bs).cmd = s.cmd := rfl
@[simp] theorem State.emitTbl_err (bs : List Byte) : (s.emitTbl bs).err = s.err := rfl
@[simp] theorem State.emitTbl_errFirst (bs : List Byte) : (s.emitTbl bs).errFirst = s.errFirst := rfl
@[simp] theorem State.emitTbl_errArg (bs : List Byte) : (s.emitTbl bs).errArg = s.errArg := rfl
@[simp] theorem State.emitTbl_intErr (bs : List Byte) : (s.emitTbl bs).intErr = s.intErr := rfl
@[simp] theorem State.emitTbl_intDone (bs : List Byte) : (s.emitTbl bs).intDone = s.intDone := rfl
@[simp] theorem State.emitTbl_nsym (bs : List Byte) : (s.emitTbl bs).nsym = s.nsym := rfl
@[simp] theorem State.emitTbl_nnode (bs : List Byte) : (s.emitTbl bs).nnode = s.nnode := rfl
@[simp] theorem State.emitTbl_root (bs : List Byte) : (s.emitTbl bs).root = s.root := rfl
@[simp] theorem State.emitTbl_rootFreq (bs : List Byte) : (s.emitTbl bs).rootFreq = s.rootFreq := rfl
@[simp] theorem State.emitTbl_maxlen (bs : List Byte) : (s.emitTbl bs).maxlen = s.maxlen := rfl
@[simp] theorem State.emitTbl_decCount (bs : List Byte) : (s.emitTbl bs).decCount = s.decCount := rfl
@[simp] theorem State.emitTbl_decBits (bs : List Byte) : (s.emitTbl bs).decBits = s.decBits := rfl
@[simp] theorem State.emitTbl_decFlags (bs : List Byte) : (s.emitTbl bs).decFlags = s.decFlags := rfl
@[simp] theorem State.emitTbl_decPtr (bs : List Byte) : (s.emitTbl bs).decPtr = s.decPtr := rfl
@[simp] theorem State.emitTbl_pend (bs : List Byte) : (s.emitTbl bs).pend = s.pend := rfl
@[simp] theorem State.emitTbl_dmode (bs : List Byte) : (s.emitTbl bs).dmode = s.dmode := rfl
@[simp] theorem State.emitTbl_mem (bs : List Byte) : (s.emitTbl bs).mem = s.mem := rfl
@[simp] theorem State.emitTbl_bitIn (bs : List Byte) : (s.emitTbl bs).bitIn = s.bitIn := rfl
@[simp] theorem State.emitTbl_symOut (bs : List Byte) : (s.emitTbl bs).symOut = s.symOut := rfl
@[simp] theorem State.emitTbl_tblOut (bs : List Byte) : (s.emitTbl bs).tblOut = s.tblOut ++ bs := rfl
@[simp] theorem State.emitTbl_freqUnwritten (bs : List Byte) : (s.emitTbl bs).freqUnwritten = s.freqUnwritten := rfl
@[simp] theorem State.emitTbl_epoch (bs : List Byte) : (s.emitTbl bs).epoch = s.epoch := rfl
@[simp] theorem State.emitTbl_draws (bs : List Byte) : (s.emitTbl bs).draws = s.draws := rfl
@[simp] theorem State.emitTbl_masters (bs : List Byte) : (s.emitTbl bs).masters = s.masters := rfl
@[simp] theorem State.emitTbl_source (bs : List Byte) : (s.emitTbl bs).source = s.source := rfl
@[simp] theorem State.emitTbl_turns (bs : List Byte) : (s.emitTbl bs).turns = s.turns := rfl

/-! ### State.writeTree -/

@[simp] theorem State.writeTree_ieErr : (s.writeTree).ieErr = s.ieErr := rfl
@[simp] theorem State.writeTree_ieDone : (s.writeTree).ieDone = s.ieDone := rfl
@[simp] theorem State.writeTree_decActive : (s.writeTree).decActive = s.decActive := rfl
@[simp] theorem State.writeTree_single : (s.writeTree).single = (s.presentSymbols.length == 1) := rfl
@[simp] theorem State.writeTree_codeValid : (s.writeTree).codeValid = false := rfl
@[simp] theorem State.writeTree_treeValid : (s.writeTree).treeValid = true := rfl
@[simp] theorem State.writeTree_cmd : (s.writeTree).cmd = s.cmd := rfl
@[simp] theorem State.writeTree_err : (s.writeTree).err = s.err := rfl
@[simp] theorem State.writeTree_errFirst : (s.writeTree).errFirst = s.errFirst := rfl
@[simp] theorem State.writeTree_errArg : (s.writeTree).errArg = s.errArg := rfl
@[simp] theorem State.writeTree_intErr : (s.writeTree).intErr = s.intErr := rfl
@[simp] theorem State.writeTree_intDone : (s.writeTree).intDone = s.intDone := rfl
@[simp] theorem State.writeTree_nsym : (s.writeTree).nsym = BitVec.ofNat 9 s.presentSymbols.length := rfl
@[simp] theorem State.writeTree_nnode : (s.writeTree).nnode = BitVec.ofNat 9 (2 * s.presentSymbols.length - 1) := rfl
@[simp] theorem State.writeTree_root : (s.writeTree).root = BitVec.ofNat 9 (2 * s.presentSymbols.length - 2) := rfl
@[simp] theorem State.writeTree_rootFreq : (s.writeTree).rootFreq = (s.mem.setNodes 0 (treeNodes s.leaves)).getWord (nodeAddr (BitVec.ofNat 9 (2 * s.presentSymbols.length - 2)).toNat) := rfl
@[simp] theorem State.writeTree_maxlen : (s.writeTree).maxlen = 0#8 := rfl
@[simp] theorem State.writeTree_decCount : (s.writeTree).decCount = s.decCount := rfl
@[simp] theorem State.writeTree_decBits : (s.writeTree).decBits = s.decBits := rfl
@[simp] theorem State.writeTree_decFlags : (s.writeTree).decFlags = s.decFlags := rfl
@[simp] theorem State.writeTree_decPtr : (s.writeTree).decPtr = s.decPtr := rfl
@[simp] theorem State.writeTree_pend : (s.writeTree).pend = s.pend := rfl
@[simp] theorem State.writeTree_dmode : (s.writeTree).dmode = s.dmode := rfl
@[simp] theorem State.writeTree_mem : (s.writeTree).mem = s.mem.setNodes 0 (treeNodes s.leaves) := rfl
@[simp] theorem State.writeTree_bitIn : (s.writeTree).bitIn = s.bitIn := rfl
@[simp] theorem State.writeTree_symOut : (s.writeTree).symOut = s.symOut := rfl
@[simp] theorem State.writeTree_tblOut : (s.writeTree).tblOut = s.tblOut := rfl
@[simp] theorem State.writeTree_freqUnwritten : (s.writeTree).freqUnwritten = s.freqUnwritten := rfl
@[simp] theorem State.writeTree_epoch : (s.writeTree).epoch = s.epoch := rfl
@[simp] theorem State.writeTree_draws : (s.writeTree).draws = s.draws := rfl
@[simp] theorem State.writeTree_masters : (s.writeTree).masters = s.masters := rfl
@[simp] theorem State.writeTree_source : (s.writeTree).source = s.source := rfl
@[simp] theorem State.writeTree_turns : (s.writeTree).turns = s.turns := rfl

/-! ### State.storeCodes -/

@[simp] theorem State.storeCodes_ieErr : (s.storeCodes).ieErr = s.ieErr := rfl
@[simp] theorem State.storeCodes_ieDone : (s.storeCodes).ieDone = s.ieDone := rfl
@[simp] theorem State.storeCodes_decActive : (s.storeCodes).decActive = s.decActive := rfl
@[simp] theorem State.storeCodes_single : (s.storeCodes).single = s.single := rfl
@[simp] theorem State.storeCodes_codeValid : (s.storeCodes).codeValid = s.codeValid := rfl
@[simp] theorem State.storeCodes_treeValid : (s.storeCodes).treeValid = s.treeValid := rfl
@[simp] theorem State.storeCodes_cmd : (s.storeCodes).cmd = s.cmd := rfl
@[simp] theorem State.storeCodes_err : (s.storeCodes).err = s.err := rfl
@[simp] theorem State.storeCodes_errFirst : (s.storeCodes).errFirst = s.errFirst := rfl
@[simp] theorem State.storeCodes_errArg : (s.storeCodes).errArg = s.errArg := rfl
@[simp] theorem State.storeCodes_intErr : (s.storeCodes).intErr = s.intErr := rfl
@[simp] theorem State.storeCodes_intDone : (s.storeCodes).intDone = s.intDone := rfl
@[simp] theorem State.storeCodes_nsym : (s.storeCodes).nsym = s.nsym := rfl
@[simp] theorem State.storeCodes_nnode : (s.storeCodes).nnode = s.nnode := rfl
@[simp] theorem State.storeCodes_root : (s.storeCodes).root = s.root := rfl
@[simp] theorem State.storeCodes_rootFreq : (s.storeCodes).rootFreq = s.rootFreq := rfl
@[simp] theorem State.storeCodes_maxlen : (s.storeCodes).maxlen = s.maxlen := rfl
@[simp] theorem State.storeCodes_decCount : (s.storeCodes).decCount = s.decCount := rfl
@[simp] theorem State.storeCodes_decBits : (s.storeCodes).decBits = s.decBits := rfl
@[simp] theorem State.storeCodes_decFlags : (s.storeCodes).decFlags = s.decFlags := rfl
@[simp] theorem State.storeCodes_decPtr : (s.storeCodes).decPtr = s.decPtr := rfl
@[simp] theorem State.storeCodes_pend : (s.storeCodes).pend = s.pend := rfl
@[simp] theorem State.storeCodes_dmode : (s.storeCodes).dmode = s.dmode := rfl
@[simp] theorem State.storeCodes_mem : (s.storeCodes).mem = s.assignedCodes.foldl (fun m p => m.storeCode p.1 p.2) s.mem.clearCodes := rfl
@[simp] theorem State.storeCodes_bitIn : (s.storeCodes).bitIn = s.bitIn := rfl
@[simp] theorem State.storeCodes_symOut : (s.storeCodes).symOut = s.symOut := rfl
@[simp] theorem State.storeCodes_tblOut : (s.storeCodes).tblOut = s.tblOut := rfl
@[simp] theorem State.storeCodes_freqUnwritten : (s.storeCodes).freqUnwritten = s.freqUnwritten := rfl
@[simp] theorem State.storeCodes_epoch : (s.storeCodes).epoch = s.epoch := rfl
@[simp] theorem State.storeCodes_draws : (s.storeCodes).draws = s.draws := rfl
@[simp] theorem State.storeCodes_masters : (s.storeCodes).masters = s.masters := rfl
@[simp] theorem State.storeCodes_source : (s.storeCodes).source = s.source := rfl
@[simp] theorem State.storeCodes_turns : (s.storeCodes).turns = s.turns := rfl

/-! ### State.emitLeaf -/

@[simp] theorem State.emitLeaf_ieErr : (s.emitLeaf).ieErr = s.ieErr := rfl
@[simp] theorem State.emitLeaf_ieDone : (s.emitLeaf).ieDone = s.ieDone := rfl
@[simp] theorem State.emitLeaf_decActive : (s.emitLeaf).decActive = s.decActive := rfl
@[simp] theorem State.emitLeaf_single : (s.emitLeaf).single = s.single := rfl
@[simp] theorem State.emitLeaf_codeValid : (s.emitLeaf).codeValid = s.codeValid := rfl
@[simp] theorem State.emitLeaf_treeValid : (s.emitLeaf).treeValid = s.treeValid := rfl
@[simp] theorem State.emitLeaf_cmd : (s.emitLeaf).cmd = s.cmd := rfl
@[simp] theorem State.emitLeaf_err : (s.emitLeaf).err = s.err := rfl
@[simp] theorem State.emitLeaf_errFirst : (s.emitLeaf).errFirst = s.errFirst := rfl
@[simp] theorem State.emitLeaf_errArg : (s.emitLeaf).errArg = s.errArg := rfl
@[simp] theorem State.emitLeaf_intErr : (s.emitLeaf).intErr = s.intErr := rfl
@[simp] theorem State.emitLeaf_intDone : (s.emitLeaf).intDone = s.intDone := rfl
@[simp] theorem State.emitLeaf_nsym : (s.emitLeaf).nsym = s.nsym := rfl
@[simp] theorem State.emitLeaf_nnode : (s.emitLeaf).nnode = s.nnode := rfl
@[simp] theorem State.emitLeaf_root : (s.emitLeaf).root = s.root := rfl
@[simp] theorem State.emitLeaf_rootFreq : (s.emitLeaf).rootFreq = s.rootFreq := rfl
@[simp] theorem State.emitLeaf_maxlen : (s.emitLeaf).maxlen = s.maxlen := rfl
@[simp] theorem State.emitLeaf_decCount : (s.emitLeaf).decCount = s.decCount + 1#32 := rfl
@[simp] theorem State.emitLeaf_decBits : (s.emitLeaf).decBits = s.decBits := rfl
@[simp] theorem State.emitLeaf_decPtr : (s.emitLeaf).decPtr = s.root := rfl
@[simp] theorem State.emitLeaf_pend : (s.emitLeaf).pend = s.pend := rfl
@[simp] theorem State.emitLeaf_dmode : (s.emitLeaf).dmode = if s.atLimit (s.decCount + 1#32) then .drain else s.dmode := rfl
@[simp] theorem State.emitLeaf_mem : (s.emitLeaf).mem = s.mem := rfl
@[simp] theorem State.emitLeaf_bitIn : (s.emitLeaf).bitIn = s.bitIn := rfl
@[simp] theorem State.emitLeaf_symOut : (s.emitLeaf).symOut = s.symOut ++ [s.nodeSym s.decPtr] := rfl
@[simp] theorem State.emitLeaf_tblOut : (s.emitLeaf).tblOut = s.tblOut := rfl
@[simp] theorem State.emitLeaf_freqUnwritten : (s.emitLeaf).freqUnwritten = s.freqUnwritten := rfl
@[simp] theorem State.emitLeaf_epoch : (s.emitLeaf).epoch = s.epoch := rfl
@[simp] theorem State.emitLeaf_draws : (s.emitLeaf).draws = s.draws := rfl
@[simp] theorem State.emitLeaf_masters : (s.emitLeaf).masters = s.masters := rfl
@[simp] theorem State.emitLeaf_source : (s.emitLeaf).source = s.source := rfl
@[simp] theorem State.emitLeaf_turns : (s.emitLeaf).turns = s.turns := rfl

/-! ### State.countBit -/

@[simp] theorem State.countBit_ieErr : (s.countBit).ieErr = s.ieErr := rfl
@[simp] theorem State.countBit_ieDone : (s.countBit).ieDone = s.ieDone := rfl
@[simp] theorem State.countBit_decActive : (s.countBit).decActive = s.decActive := rfl
@[simp] theorem State.countBit_single : (s.countBit).single = s.single := rfl
@[simp] theorem State.countBit_codeValid : (s.countBit).codeValid = s.codeValid := rfl
@[simp] theorem State.countBit_treeValid : (s.countBit).treeValid = s.treeValid := rfl
@[simp] theorem State.countBit_cmd : (s.countBit).cmd = s.cmd := rfl
@[simp] theorem State.countBit_err : (s.countBit).err = s.err := rfl
@[simp] theorem State.countBit_errFirst : (s.countBit).errFirst = s.errFirst := rfl
@[simp] theorem State.countBit_errArg : (s.countBit).errArg = s.errArg := rfl
@[simp] theorem State.countBit_intErr : (s.countBit).intErr = s.intErr := rfl
@[simp] theorem State.countBit_intDone : (s.countBit).intDone = s.intDone := rfl
@[simp] theorem State.countBit_nsym : (s.countBit).nsym = s.nsym := rfl
@[simp] theorem State.countBit_nnode : (s.countBit).nnode = s.nnode := rfl
@[simp] theorem State.countBit_root : (s.countBit).root = s.root := rfl
@[simp] theorem State.countBit_rootFreq : (s.countBit).rootFreq = s.rootFreq := rfl
@[simp] theorem State.countBit_maxlen : (s.countBit).maxlen = s.maxlen := rfl
@[simp] theorem State.countBit_decCount : (s.countBit).decCount = s.decCount := rfl
@[simp] theorem State.countBit_decBits : (s.countBit).decBits = s.decBits + 1#32 := rfl
@[simp] theorem State.countBit_decFlags : (s.countBit).decFlags = s.decFlags := rfl
@[simp] theorem State.countBit_decPtr : (s.countBit).decPtr = s.decPtr := rfl
@[simp] theorem State.countBit_pend : (s.countBit).pend = s.pend := rfl
@[simp] theorem State.countBit_dmode : (s.countBit).dmode = s.dmode := rfl
@[simp] theorem State.countBit_mem : (s.countBit).mem = s.mem := rfl
@[simp] theorem State.countBit_bitIn : (s.countBit).bitIn = s.bitIn := rfl
@[simp] theorem State.countBit_symOut : (s.countBit).symOut = s.symOut := rfl
@[simp] theorem State.countBit_tblOut : (s.countBit).tblOut = s.tblOut := rfl
@[simp] theorem State.countBit_freqUnwritten : (s.countBit).freqUnwritten = s.freqUnwritten := rfl
@[simp] theorem State.countBit_epoch : (s.countBit).epoch = s.epoch := rfl
@[simp] theorem State.countBit_draws : (s.countBit).draws = s.draws := rfl
@[simp] theorem State.countBit_masters : (s.countBit).masters = s.masters := rfl
@[simp] theorem State.countBit_source : (s.countBit).source = s.source := rfl
@[simp] theorem State.countBit_turns : (s.countBit).turns = s.turns := rfl

/-! ### State.drainBit -/

@[simp] theorem State.drainBit_ieErr : (s.drainBit).ieErr = s.ieErr := rfl
@[simp] theorem State.drainBit_ieDone : (s.drainBit).ieDone = s.ieDone := rfl
@[simp] theorem State.drainBit_decActive : (s.drainBit).decActive = s.decActive := rfl
@[simp] theorem State.drainBit_single : (s.drainBit).single = s.single := rfl
@[simp] theorem State.drainBit_codeValid : (s.drainBit).codeValid = s.codeValid := rfl
@[simp] theorem State.drainBit_treeValid : (s.drainBit).treeValid = s.treeValid := rfl
@[simp] theorem State.drainBit_cmd : (s.drainBit).cmd = s.cmd := rfl
@[simp] theorem State.drainBit_err : (s.drainBit).err = s.err := rfl
@[simp] theorem State.drainBit_errFirst : (s.drainBit).errFirst = s.errFirst := rfl
@[simp] theorem State.drainBit_errArg : (s.drainBit).errArg = s.errArg := rfl
@[simp] theorem State.drainBit_intErr : (s.drainBit).intErr = s.intErr := rfl
@[simp] theorem State.drainBit_intDone : (s.drainBit).intDone = s.intDone := rfl
@[simp] theorem State.drainBit_nsym : (s.drainBit).nsym = s.nsym := rfl
@[simp] theorem State.drainBit_nnode : (s.drainBit).nnode = s.nnode := rfl
@[simp] theorem State.drainBit_root : (s.drainBit).root = s.root := rfl
@[simp] theorem State.drainBit_rootFreq : (s.drainBit).rootFreq = s.rootFreq := rfl
@[simp] theorem State.drainBit_maxlen : (s.drainBit).maxlen = s.maxlen := rfl
@[simp] theorem State.drainBit_decCount : (s.drainBit).decCount = s.decCount := rfl
@[simp] theorem State.drainBit_decBits : (s.drainBit).decBits = s.decBits + 1#32 := rfl
@[simp] theorem State.drainBit_decPtr : (s.drainBit).decPtr = s.decPtr := rfl
@[simp] theorem State.drainBit_pend : (s.drainBit).pend = s.pend := rfl
@[simp] theorem State.drainBit_dmode : (s.drainBit).dmode = s.dmode := rfl
@[simp] theorem State.drainBit_mem : (s.drainBit).mem = s.mem := rfl
@[simp] theorem State.drainBit_bitIn : (s.drainBit).bitIn = s.bitIn := rfl
@[simp] theorem State.drainBit_symOut : (s.drainBit).symOut = s.symOut := rfl
@[simp] theorem State.drainBit_tblOut : (s.drainBit).tblOut = s.tblOut := rfl
@[simp] theorem State.drainBit_freqUnwritten : (s.drainBit).freqUnwritten = s.freqUnwritten := rfl
@[simp] theorem State.drainBit_epoch : (s.drainBit).epoch = s.epoch := rfl
@[simp] theorem State.drainBit_draws : (s.drainBit).draws = s.draws := rfl
@[simp] theorem State.drainBit_masters : (s.drainBit).masters = s.masters := rfl
@[simp] theorem State.drainBit_source : (s.drainBit).source = s.source := rfl
@[simp] theorem State.drainBit_turns : (s.drainBit).turns = s.turns := rfl

@[simp] theorem State.emitLeaf_lim : s.emitLeaf.decFlags.lim = s.decFlags.lim := rfl
@[simp] theorem State.emitLeaf_limitHit :
    s.emitLeaf.decFlags.limitHit = (s.decFlags.limitHit || s.atLimit (s.decCount + 1#32)) := rfl
@[simp] theorem State.emitLeaf_drained : s.emitLeaf.decFlags.drained = s.decFlags.drained := rfl
@[simp] theorem State.emitLeaf_underrun : s.emitLeaf.decFlags.underrun = s.decFlags.underrun := rfl
@[simp] theorem State.emitLeaf_partialCode : s.emitLeaf.decFlags.partialCode = s.decFlags.partialCode := rfl
@[simp] theorem State.drainBit_lim : s.drainBit.decFlags.lim = s.decFlags.lim := rfl
@[simp] theorem State.drainBit_limitHit : s.drainBit.decFlags.limitHit = s.decFlags.limitHit := rfl
@[simp] theorem State.drainBit_drained : s.drainBit.decFlags.drained = true := rfl
@[simp] theorem State.drainBit_underrun : s.drainBit.decFlags.underrun = s.decFlags.underrun := rfl
@[simp] theorem State.drainBit_partialCode : s.drainBit.decFlags.partialCode = s.decFlags.partialCode := rfl

end Sys2Proof.Machine
end

