-- ==== Sys2Proof/Laws/Ops.lean ====
section
/-! SUPPORT. What the shared operations can do, said once each: reading FREQ and NODE after an update, a host access, an agent's
turn, a step. -/

namespace Sys2Proof.Machine

/-! ### NODE and CODE depend on the memories alone -/

section
variable {s t : State}

theorem State.nodeFreq_congr (h : t.mem = s.mem) (i : NodeIdx) : t.nodeFreq i = s.nodeFreq i := by
  simp only [State.nodeFreq, h]

theorem State.nodeLink_congr (h : t.mem = s.mem) (i : NodeIdx) : t.nodeLink i = s.nodeLink i := by
  simp only [State.nodeLink, h]

theorem State.isLeaf_congr (h : t.mem = s.mem) (i : NodeIdx) : t.isLeaf i = s.isLeaf i := by
  simp only [State.isLeaf, State.nodeLink_congr h]

theorem State.nodeSym_congr (h : t.mem = s.mem) (i : NodeIdx) : t.nodeSym i = s.nodeSym i := by
  simp only [State.nodeSym, State.nodeLink_congr h]

theorem State.left_congr (h : t.mem = s.mem) (i : NodeIdx) : t.left i = s.left i := by
  simp only [State.left, State.nodeLink_congr h]

theorem State.right_congr (h : t.mem = s.mem) (i : NodeIdx) : t.right i = s.right i := by
  simp only [State.right, State.nodeLink_congr h]

theorem State.child_congr (h : t.mem = s.mem) (i : NodeIdx) (v : Bool) : t.child i v = s.child i v := by
  simp only [State.child, State.left_congr h, State.right_congr h]

theorem State.codeLen_congr (h : t.mem = s.mem) (sym : Byte) : t.codeLen sym = s.codeLen sym := by
  simp only [State.codeLen, h]

theorem State.codeBit_congr (h : t.mem = s.mem) (sym : Byte) (k : Nat) : t.codeBit sym k = s.codeBit sym k := by
  simp only [State.codeBit, h]

theorem State.freq_congr (h : t.mem = s.mem) (hu : t.freqUnwritten = s.freqUnwritten) (he : t.epoch = s.epoch)
    (sym : Byte) : t.freq sym = s.freq sym := by
  simp only [State.freq, h, hu, he]

/-- A NODE word is the same where its bytes are the same. -/
theorem State.nodeLink_of_bytes (h : ∀ a, 0x2000 ≤ a → a < 0x3000 → t.mem.get a = s.mem.get a) (i : NodeIdx) :
    t.nodeLink i = s.nodeLink i := by
  have hi := i.isLt
  refine Memory.getWord_congr (fun k hk => h _ ?_ ?_) <;> simp only [nodeAddr] <;> omega

theorem State.nodeFreq_of_bytes (h : ∀ a, 0x2000 ≤ a → a < 0x3000 → t.mem.get a = s.mem.get a) (i : NodeIdx) :
    t.nodeFreq i = s.nodeFreq i := by
  have hi := i.isLt
  refine Memory.getWord_congr (fun k hk => h _ ?_ ?_) <;> simp only [nodeAddr] <;> omega

end

/-! ### FREQ -/

theorem freqAddr_inj {x y : Byte} (h : freqAddr x = freqAddr y) : x = y := by
  simp only [freqAddr] at h
  exact BitVec.eq_of_toNat_eq (by omega)

theorem freqAddr_far {x y : Byte} (h : x ≠ y) : freqAddr x + 4 ≤ freqAddr y ∨ freqAddr y + 4 ≤ freqAddr x := by
  have : x.toNat ≠ y.toNat := fun e => h (BitVec.eq_of_toNat_eq e)
  simp only [freqAddr]
  omega

/-- FREQ after a write of one word (R97). -/
theorem State.freq_setFreq {s : State} (h : s.mem.wf = true) (sym : Byte) (v : Word) (x : Byte) :
    (s.setFreq sym v).freq x = if x = sym then v else s.freq x := by
  by_cases hx : x = sym
  · have hnot : (s.freqUnwritten.filter (fun y => y != sym)).contains sym = false := by
      simp
    simp only [State.freq, State.setFreq_freqUnwritten, State.setFreq_mem, hx, hnot, if_true]
    exact Memory.getWord_setWord_same h _ _
  · have hsame : (s.freqUnwritten.filter (fun y => y != sym)).contains x = s.freqUnwritten.contains x := by
      rw [Bool.eq_iff_iff]
      simp [hx]
    simp only [State.freq, State.setFreq_freqUnwritten, State.setFreq_mem, State.setFreq_epoch, hsame, hx, if_false]
    rw [Memory.getWord_setWord_other h _ (freqAddr_far hx)]

/-- FREQ after one value is written to each of some symbols. -/
theorem State.freq_foldl_setFreq (v : Word) (x : Byte) : ∀ (l : List Byte) (s : State), s.mem.wf = true →
    (l.foldl (fun t sym => t.setFreq sym v) s).mem.wf = true ∧
      (l.foldl (fun t sym => t.setFreq sym v) s).freq x = if x ∈ l then v else s.freq x
  | [], s, h => ⟨h, by simp⟩
  | sym :: l, s, h => by
    obtain ⟨hwf, hx⟩ := State.freq_foldl_setFreq v x l (s.setFreq sym v) (Memory.wf_setWord h _ _)
    refine ⟨hwf, ?_⟩
    rw [List.foldl_cons, hx, State.freq_setFreq h]
    by_cases hs : x = sym <;> simp [hs]

/-- FREQ after CLEAR's zeroing (R96). -/
theorem State.freq_zeroFreq (s : State) (x : Byte) : s.zeroFreq.freq x = 0#32 := by
  have hx := x.isLt
  simp only [State.freq, State.zeroFreq_freqUnwritten, State.zeroFreq_mem, List.contains_nil]
  exact Memory.getWord_zeroRange_inside _ (by simp only [freqAddr]; omega) (by simp only [freqAddr]; omega)

/-- An aborted CLEAR changes FREQ and the count of draws alone: each word is its old value or 0, and no byte from 0x800 on
moves (R103, R189). -/
theorem State.abortClear_spec {s : State} (h : s.mem.wf = true) :
    ∃ m u, s.abortClear = { s with mem := m, freqUnwritten := u, draws := s.draws + 1 } ∧ m.wf = true ∧
      (∀ a, 0x800 ≤ a → m.get a = s.mem.get a) ∧
      ∀ x, s.abortClear.freq x = s.freq x ∨ s.abortClear.freq x = 0#32 := by
  suffices hfold : ∀ (l : List Byte) (r : State), r.mem.wf = true →
      ∃ m u, l.foldl (fun t sym => if Config.abortedClearZeroed s.draws sym then t.setFreq sym 0#32 else t) r =
          { r with mem := m, freqUnwritten := u } ∧ m.wf = true ∧ (∀ a, 0x800 ≤ a → m.get a = r.mem.get a) ∧
        ∀ x, ({ r with mem := m, freqUnwritten := u } : State).freq x = r.freq x ∨
          ({ r with mem := m, freqUnwritten := u } : State).freq x = 0#32 by
    obtain ⟨m, u, he, hwf, hget, hfreq⟩ := hfold allSymbols s h
    have hclear : s.abortClear = { s with mem := m, freqUnwritten := u, draws := s.draws + 1 } := by
      simp only [State.abortClear, he]
    refine ⟨m, u, hclear, hwf, hget, fun x => ?_⟩
    rw [hclear]
    exact hfreq x
  intro l
  induction l with
  | nil => exact fun r hr => ⟨r.mem, r.freqUnwritten, rfl, hr, fun _ _ => rfl, fun _ => Or.inl rfl⟩
  | cons sym l ih =>
    intro r hr
    by_cases hc : Config.abortedClearZeroed s.draws sym = true
    · obtain ⟨m, u, he, hwf, hget, hfreq⟩ := ih (r.setFreq sym 0#32) (Memory.wf_setWord hr _ _)
      refine ⟨m, u, by simp only [List.foldl_cons, hc, if_true, he]; rfl, hwf, fun a ha => ?_, fun x => ?_⟩
      · have hsym := sym.isLt
        rw [hget a ha, State.setFreq_mem, Memory.get_setWord hr, if_neg (by simp only [freqAddr]; omega)]
      · have hx := State.freq_setFreq hr sym 0#32 x
        have hm := hfreq x
        rw [hx] at hm
        by_cases hxs : x = sym
        · simp only [hxs, if_true] at hm
          exact Or.inr (by rcases hm with hm | hm <;> simpa [hxs] using hm)
        · simpa [hxs] using hm
    · obtain ⟨m, u, he, hwf, hget, hfreq⟩ := ih r hr
      exact ⟨m, u, by rw [List.foldl_cons, if_neg hc, he], hwf, hget, hfreq⟩

/-! ### Causes -/

/-- The ERR bit of a cause is the bit of its number (R24). -/
theorem Cause.getLsbD_bit (c : Cause) (k : Nat) (hk : k < 8) : c.bit.getLsbD k = (k == c.number) := by
  cases c <;> simp only [Cause.bit, Cause.number] <;> interval_cases k <;> decide

theorem Cause.number_le (c : Cause) : c.number ≤ 7 := by cases c <;> decide

/-! ### Host accesses -/

/-- What a host access leaves: BADACC recorded, the state as it was or with one draw more, or one write to a writable
location (R52 to R58). -/
theorem State.access_cases {s : State} {a : Access} :
    (a.target = none ∧ (s.access a).1 = s.badAccess a) ∨
      (∃ l, a.target = some l ∧ a.isWrite = false ∧
        ((s.access a).1 = s ∨ (s.access a).1 = { s with draws := s.draws + 1 })) ∨
      (∃ l v, a.target = some l ∧ a.isWrite = true ∧ l.writable = true ∧ (s.access a).1 = s.writeLoc l v) := by
  cases a with
  | read off size =>
    cases ht : (Access.read off size).target with
    | none => exact Or.inl ⟨rfl, by simp only [State.access, ht]⟩
    | some l =>
      refine Or.inr (Or.inl ⟨l, rfl, rfl, ?_⟩)
      simp only [State.access, ht, State.readLoc]
      split
      · exact Or.inl rfl
      · exact Or.inr rfl
  | write off size v =>
    cases ht : (Access.write off size v).target with
    | none => exact Or.inl ⟨rfl, by simp only [State.access, ht]⟩
    | some l =>
      refine Or.inr (Or.inr ⟨l, v, rfl, rfl, ?_, by simp only [State.access, ht]⟩)
      simp only [Access.target, Access.isWrite, Bool.true_and] at ht
      split at ht
      · cases ht
      · split at ht
        · cases ht
        · split at ht
          · cases ht
          · split at ht
            · cases ht
            · rename_i hw
              cases ht
              simpa using hw

/-- A write to a writable location is one of the five of R58. -/
theorem State.writeLoc_cases {s : State} {l : Loc} (hl : l.writable = true) (v : Word) :
    (l = .reg .ctrl ∧ s.writeLoc l v = s.writeCtrl v) ∨ (l = .reg .cmd ∧ s.writeLoc l v = s.writeCmd v) ∨
      (l = .reg .err ∧ s.writeLoc l v = s.writeErr v) ∨ (l = .reg .intPend ∧ s.writeLoc l v = s.writeIntPend v) ∨
      (∃ sym, l = .freq sym ∧ s.writeLoc l v = s.setFreq sym v) := by
  cases l with
  | reg r => cases r <;> simp_all [Loc.writable, State.writeLoc]
  | freq sym => exact Or.inr (Or.inr (Or.inr (Or.inr ⟨sym, rfl, rfl⟩)))
  | node i link => simp [Loc.writable] at hl
  | code sym w => simp [Loc.writable] at hl

/-! ### Turns and steps -/

/-- The end of a run, without its third condition: with no access left none is stalled (R200). -/
theorem State.runEnded_iff {s : State} : s.runEnded = true ↔ (∀ h ∈ s.masters, h.todo = []) ∧ s.pend = none := by
  simp only [State.runEnded, State.hostDone, State.hostStalled, State.busy, Bool.and_eq_true, List.all_eq_true,
    List.isEmpty_iff, Bool.not_eq_true', Option.isSome_eq_false_iff, Option.isNone_iff_eq_none, List.any_eq_false]
  exact ⟨fun h => h.1, fun h => ⟨h, fun m hm => by simp [h.1 m hm]⟩⟩

/-- Every meaning answers a next state. -/
theorem exec_next (i : Instr) (s : State) : ∃ t, exec i s = .next t := by
  cases i <;> exact ⟨_, rfl⟩

/-- The engine's turn always answers a next state. -/
theorem step_engine_next {s : State} {rest : List Agent} (h : s.turns = .engine :: rest) : ∃ t, step s = .next t := by
  simp only [step, h, agentTurn, engineTurn]
  split
  · exact ⟨_, rfl⟩
  · exact exec_next _ _

/-- What one turn of an agent leaves, over the state `s` whose turn it is. -/
inductive Turned (s : State) : State → Prop where
  /-- The turn passes: no agent has a step, or the run has ended. -/
  | same : Turned s s
  /-- The engine runs what it fetched. -/
  | ran {t : State} (e : Encoded) (hf : s.fetched = some e) (ht : exec (decodeEncoded e) (s.take e) = .next t) : Turned s t
  /-- A bus master performs its next access. -/
  | performed (m : Nat) (a : Access) (hn : s.nextAccess m = some a) (hs : s.stalls a = false) :
      Turned s { (s.access a).1 with masters := (s.access a).1.masters.modify m (fun h => h.done (s.access a).2) }
  /-- The bit source appends a token. -/
  | fed (x : Token) (xs : List Token) (h : s.source = x :: xs) : Turned s { s with bitIn := s.bitIn ++ [x], source := xs }
  /-- The consumer of SYM_OUT takes a byte. -/
  | symTaken : Turned s { s with symOut := s.symOut.tail }
  /-- The consumer of TBL_OUT takes a byte. -/
  | tblTaken : Turned s { s with tblOut := s.tblOut.tail }
  /-- Power-on reset. -/
  | powered : Turned s s.powerOn

theorem engineTurn_turned {s t : State} (h : engineTurn s = .next t) : Turned s t := by
  unfold engineTurn at h
  split at h
  · cases h
    exact .same
  · exact .ran _ ‹_› h

theorem hostTurn_turned (s : State) (m : Nat) : Turned s (hostTurn m s) := by
  unfold hostTurn
  split
  · exact .same
  · split
    · exact .same
    · rename_i hs
      exact .performed m _ ‹_› (by simpa using hs)

theorem sourceTurn_turned (s : State) : Turned s (sourceTurn s) := by
  unfold sourceTurn
  split
  · exact .same
  · exact .fed _ _ ‹_›

/-- Everything a step can do: it is one turn, after its entry of `turns` is used up if there is one. -/
theorem step_turned {s t : State} (h : step s = .next t) :
    ∃ s0, (s0 = s ∨ ∃ a rest, s.turns = a :: rest ∧ s0 = { s with turns := rest }) ∧ Turned s0 t := by
  unfold step at h
  split at h
  · refine ⟨s, Or.inl rfl, ?_⟩
    unfold idleTurn at h
    split at h
    · exact engineTurn_turned h
    · split at h
      · cases h
        exact hostTurn_turned _ _
      · split at h
        · cases h
          exact sourceTurn_turned _
        · split at h
          · cases h
          · cases h
            exact .same
  · rename_i a rest hturns
    refine ⟨_, Or.inr ⟨a, rest, hturns, rfl⟩, ?_⟩
    cases a with
    | engine => exact engineTurn_turned h
    | host m =>
      cases h
      exact hostTurn_turned _ _
    | source =>
      cases h
      exact sourceTurn_turned _
    | symSink =>
      cases h
      exact .symTaken
    | tblSink =>
      cases h
      exact .tblTaken
    | power =>
      cases h
      exact .powered

end Sys2Proof.Machine
end

