-- ==== Sys2Proof/Laws/PerInstr.lean ====
section
/-! SUPPORT. The per-instruction family: the encoded word of a well-formed instruction is a word of the instruction's own
opcode-table row. -/

namespace Sys2Proof.Laws.TableRow

/-- The encoded form is a command word with these bits under a mask. -/
def CmdRow (mask row : Word) (e : Encoded) : Prop := ∃ w, e = .cmd w ∧ w &&& mask = row

/-- The encoded form is a token with these bits under a mask. -/
def TokRow (mask row : Token) (e : Encoded) : Prop := ∃ t, e = .tok t ∧ t &&& mask = row

/-- The mask and match of an instruction's row (30_encoding.md R75, R77, R80). The third ILLEGAL row has no mask: its words
have OP 0x0 to 0x5, and are none of the legal ones. -/
def Row : Instr → Encoded → Prop
  | .nop => CmdRow 0xFFFFFFFF#32 0x0#32
  | .clear => CmdRow 0xFFFFFFFF#32 0x1#32
  | .build => CmdRow 0xFFFFFFFF#32 0x2#32
  | .derive => CmdRow 0xFFFFFFFF#32 0x3#32
  | .serialize => CmdRow 0xFFFFFFFF#32 0x4#32
  | .decode => CmdRow 0xFFFFFFFF#32 0x5#32
  | .decodeLim => CmdRow 0xFFFFFFFF#32 0x15#32
  | .illegalOp6 _ => CmdRow 0xE#32 0x6#32
  | .illegalOp8 _ => CmdRow 0x8#32 0x8#32
  | .illegalReserved _ => fun e => ∃ w, e = .cmd w ∧ w &&& 0x8#32 ≠ 0x8#32 ∧ w &&& 0xE#32 ≠ 0x6#32 ∧
      w ∉ [0x0#32, 0x1#32, 0x2#32, 0x3#32, 0x4#32, 0x5#32, 0x15#32]
  | .bit0 => TokRow 7#3 0#3
  | .bit1 => TokRow 7#3 1#3
  | .bad2 => TokRow 7#3 2#3
  | .bad3 => TokRow 7#3 3#3
  | .eos _ => TokRow 4#3 4#3

/-- A well-formed instruction encodes into its own row. -/
def Statement (i : Instr) : Prop := i.wellFormed = true → Row i (encode i)

theorem nop : Statement .nop := fun _ => ⟨_, rfl, rfl⟩

theorem clear : Statement .clear := fun _ => ⟨_, rfl, rfl⟩

theorem build : Statement .build := fun _ => ⟨_, rfl, rfl⟩

theorem derive : Statement .derive := fun _ => ⟨_, rfl, rfl⟩

theorem serialize : Statement .serialize := fun _ => ⟨_, rfl, rfl⟩

theorem decode : Statement .decode := fun _ => ⟨_, rfl, rfl⟩

theorem decodeLim : Statement .decodeLim := fun _ => ⟨_, rfl, rfl⟩

theorem illegalOp6 (w : Word) : Statement (.illegalOp6 w) := by
  intro h
  have hw : w.extractLsb' 1 3 = 3#3 := by simpa [Instr.wellFormed, isOp6Word] using h
  have hmask : w &&& 0xE#32 = (w.extractLsb' 1 3).zeroExtend 32 <<< 1 := by
    ext k hk
    interval_cases k <;> simp [BitVec.getElem_shiftLeft]
  exact ⟨w, rfl, by rw [hmask, hw]; rfl⟩

theorem illegalOp8 (w : Word) : Statement (.illegalOp8 w) := by
  intro h
  have hw : w.getLsbD 3 = true := h
  refine ⟨w, rfl, ?_⟩
  ext k hk
  interval_cases k <;> simp [← BitVec.getLsbD_eq_getElem, hw]

theorem illegalReserved (w : Word) : Statement (.illegalReserved w) := by
  intro h
  replace h : isReservedWord w = true := h
  have hop : (w.extractLsb' 0 4).toNat ≤ 5 := by
    simp only [isReservedWord, Bool.or_eq_true, Bool.and_eq_true, decide_eq_true_eq, beq_iff_eq] at h
    rcases h with h | h
    · omega
    · rw [h.1]
      decide
  have hand : ∀ m v : BitVec 4, w &&& m.zeroExtend 32 = v.zeroExtend 32 → w.extractLsb' 0 4 &&& m = v := by
    intro m v e
    ext k hk
    have := congrArg (fun x => x.getLsbD k) e
    simpa [BitVec.getLsbD_eq_getElem, show k < 32 by omega, hk] using this
  have key : ∀ x : BitVec 4, x.toNat ≤ 5 → x &&& 8#4 ≠ 8#4 ∧ x &&& 0xE#4 ≠ 6#4 := by decide
  refine ⟨w, rfl, fun e => (key _ hop).1 (hand 8#4 8#4 e), fun e => (key _ hop).2 (hand 0xE#4 6#4 e), fun hm => ?_⟩
  fin_cases hm <;> exact absurd h (by decide)

theorem bit0 : Statement .bit0 := fun _ => ⟨_, rfl, rfl⟩

theorem bit1 : Statement .bit1 := fun _ => ⟨_, rfl, rfl⟩

theorem bad2 : Statement .bad2 := fun _ => ⟨_, rfl, rfl⟩

theorem bad3 : Statement .bad3 := fun _ => ⟨_, rfl, rfl⟩

theorem eos (d : BitVec 2) : Statement (.eos d) := fun _ => ⟨_, rfl, by revert d; decide⟩

end Sys2Proof.Laws.TableRow
end

