-- ==== Sys2Proof/Tests/Slice0.lean ====
section
/-! SUPPORT. The model's own tests: ill-formed terms, decoding, single steps with the results of 95_test_vectors.md, and for
every statement with hypotheses a state and operands that meet them. -/

namespace Sys2Proof.Tests

set_option Elab.async false

open Sys2Proof Sys2Proof.Machine

/-! ### States to test on -/

/-- The reset state with FREQ all 0 but for the given symbols. -/
def tableOf (l : List (Nat × Nat)) : State :=
  l.foldl (fun s p => s.setFreq (BitVec.ofNat 8 p.1) (BitVec.ofNat 32 p.2)) { State.reset with freqUnwritten := [] }

/-- The state a step answers; the state itself where it answers none. -/
def nextOf (s : State) : State :=
  match step s with
  | .next t => t
  | .fault _ => s
  | .refused _ => s

/-- The command word written to CMD, and the engine's next step. -/
def command (w : Word) (s : State) : State := nextOf { s.writeCmd w with turns := [.engine] }

/-- A token appended to BIT_IN, and the engine's next step. -/
def token (k : Token) (s : State) : State := nextOf { s with bitIn := s.bitIn ++ [k], turns := [.engine] }

/-- A host access of a single bus master. -/
def host (a : Access) (s : State) : State := nextOf { s with masters := [{ todo := [a], got := [] }], turns := [.host 0] }

/-- FREQ of V-L1. -/
def abcTable : State := tableOf [(97, 3), (98, 2), (99, 1)]

/-- A leaf of a tree. -/
def leafOf (sym : Byte) (freq : Word) : Node := { freq := freq, leaf := true, sym := sym, right := nilIdx, left := nilIdx }

/-- An internal node of a tree. -/
def innerOf (left right : NodeIdx) (freq : Word) : Node := { freq := freq, leaf := false, sym := 0#8, right := right, left := left }

/-- The state after BUILD, with the tree of V-B1 (V-L1). -/
def abcTree : State :=
  { abcTable with
    mem := abcTable.mem.setNodes 0
      [leafOf 97#8 3#32, leafOf 98#8 2#32, leafOf 99#8 1#32, innerOf 2#9 1#9 3#32, innerOf 0#9 3#9 6#32]
    nsym := 3#9
    nnode := 5#9
    root := 4#9
    rootFreq := 6#32
    treeValid := true
    cmd := 2#32
    intDone := true }

/-- The state after DERIVE, with the codes of V-C1. -/
def abcCodes : State :=
  { abcTree with
    mem := ((abcTree.mem.storeCode 97#8 [false]).storeCode 98#8 [true, true]).storeCode 99#8 [true, false]
    maxlen := 2#8
    codeValid := true
    cmd := 3#32 }

/-- The single tree {65: 4} with its code. -/
def oneCodes : State :=
  { tableOf [(65, 4)] with
    mem := ((tableOf [(65, 4)]).mem.setNodes 0 [leafOf 65#8 4#32]).storeCode 65#8 [false]
    nsym := 1#9
    nnode := 1#9
    rootFreq := 4#32
    treeValid := true
    single := true
    maxlen := 1#8
    codeValid := true
    cmd := 3#32
    intDone := true }

/-- DECODE or DECODE.LIM started on a tree (R139). -/
def started (s : State) (lim : Bool) : State :=
  { s with
    cmd := if lim then 0x15#32 else 0x5#32
    pend := some (if lim then 0x15#32 else 0x5#32)
    decActive := true
    decPtr := s.root
    decFlags := { DecFlags.zero with lim := lim } }

/-- A started DECODE or DECODE.LIM on the tree of V-B1. -/
def abcDecode (lim : Bool) : State := started abcCodes lim

/-- A started DECODE or DECODE.LIM on the single tree. -/
def oneDecode (lim : Bool) : State := started oneCodes lim

/-- The DECODE.LIM of V-D1 after its first bit, the engine's turn next, another bit in BIT_IN. -/
def abcRunning : State := { abcDecode true with decPtr := 0#9, decBits := 1#32, bitIn := [0#3], turns := [.engine] }

/-- The DECODE.LIM of V-D10 after its last bit: in DRAIN mode. -/
def abcDrain : State :=
  { abcDecode true with
    decCount := 6#32
    decBits := 10#32
    decFlags := { DecFlags.zero with lim := true, limitHit := true }
    dmode := .drain
    symOut := [97#8, 97#8, 97#8, 98#8, 98#8, 99#8] }

/-! ### Ill-formed terms -/

theorem test_illformed_illegalOp6 : (Instr.illegalOp6 0x5#32).wellFormed = false := by decide

theorem test_illformed_illegalOp8 : (Instr.illegalOp8 0x7#32).wellFormed = false := by decide

theorem test_illformed_illegalReserved : (Instr.illegalReserved 0x15#32).wellFormed = false := by decide

theorem test_illformed_illegalReserved_op : (Instr.illegalReserved 0x26#32).wellFormed = false := by decide

theorem test_wellformed_illegal : (Instr.illegalOp6 0x7#32).wellFormed = true ∧ (Instr.illegalOp8 0xF#32).wellFormed = true ∧
    (Instr.illegalReserved 0x10#32).wellFormed = true ∧ (Instr.illegalReserved 0x80000005#32).wellFormed = true := by decide

/-! ### Decoding, bit by bit from R74, R75 and R80 -/

theorem test_decode_nop : decodeCmd 0b00000000000000000000000000000000#32 = .nop := by decide

theorem test_decode_clear : decodeCmd 0b00000000000000000000000000000001#32 = .clear := by decide

theorem test_decode_build : decodeCmd 0b00000000000000000000000000000010#32 = .build := by decide

theorem test_decode_derive : decodeCmd 0b00000000000000000000000000000011#32 = .derive := by decide

theorem test_decode_serialize : decodeCmd 0b00000000000000000000000000000100#32 = .serialize := by decide

theorem test_decode_decode : decodeCmd 0b00000000000000000000000000000101#32 = .decode := by decide

theorem test_decode_decodeLim : decodeCmd 0b00000000000000000000000000010101#32 = .decodeLim := by decide

theorem test_decode_illegalOp6 :
    decodeCmd 0b01000000000000000000000000000111#32 = .illegalOp6 0b01000000000000000000000000000111#32 := by decide

theorem test_decode_illegalOp8 :
    decodeCmd 0b00000000000000000000000000011000#32 = .illegalOp8 0b00000000000000000000000000011000#32 := by decide

/-- V-H6 and V-H7: LIM is reserved outside DECODE, and bit 5 within it. -/
theorem test_decode_illegalReserved :
    decodeCmd 0b00000000000000000000000000010010#32 = .illegalReserved 0b00000000000000000000000000010010#32 ∧
    decodeCmd 0b00000000000000000000000000100101#32 = .illegalReserved 0b00000000000000000000000000100101#32 := by decide

theorem test_decode_tokens : decodeTok 0b000#3 = .bit0 ∧ decodeTok 0b001#3 = .bit1 ∧ decodeTok 0b010#3 = .bad2 ∧
    decodeTok 0b011#3 = .bad3 ∧ decodeTok 0b100#3 = .eos 0b00#2 ∧ decodeTok 0b111#3 = .eos 0b11#2 := by decide

theorem test_decode_table_words : decodeTableWord 32 0x15 = some .decodeLim ∧ decodeTableWord 8 1 = some .bit1 ∧
    decodeTableWord 8 4 = some (.eos 0#2) ∧ decodeTableWord 8 6 = some (.illegalOp6 6#32) ∧
    decodeTableWord 8 8 = some (.illegalOp8 8#32) ∧ decodeTableWord 32 (2 ^ 32) = none := by decide

/-! ### Single steps, with the results of 95_test_vectors.md -/

/-- V-H2. -/
theorem test_nop : (command 0x0#32 State.reset).intPendWord = 1#32 ∧ (command 0x0#32 State.reset).statusWord = 0#32 := by
  decide +kernel

/-- V-H3. -/
theorem test_clear : (command 0x1#32 abcTree).freq 97#8 = 0#32 ∧ (command 0x1#32 abcTree).statusWord = 0#32 ∧
    (command 0x1#32 State.reset).freq 97#8 = 0#32 := by decide +kernel

/-- V-H5. -/
theorem test_illegalOp6 : let t := command 0x6#32 State.reset
    t.err = 1#8 ∧ t.errFirst = 1#4 ∧ t.errArg = 6#32 ∧ t.intPendWord = 3#32 ∧ t.cmd = 6#32 := by decide +kernel

/-- V-H7. -/
theorem test_illegalOp8 : let t := command 0xF#32 State.reset
    t.err = 1#8 ∧ t.errFirst = 1#4 ∧ t.errArg = 15#32 := by decide +kernel

/-- V-H6. -/
theorem test_illegalReserved : let t := command 0x12#32 abcTable
    t.err = 1#8 ∧ t.errFirst = 1#4 ∧ t.errArg = 0x12#32 ∧ t.treeValid = false := by decide +kernel

/-- V-B1 with V-L1's LINK words and results. -/
theorem test_build : command 0x2#32 abcTable = abcTree ∧ (List.range 5).map (fun i => abcTree.nodeLink (BitVec.ofNat 9 i)) =
      [0x8187FFFF#32, 0x818BFFFF#32, 0x818FFFFF#32, 0x202#32, 0x600#32] ∧ abcTree.statusWord = 2#32 := by decide +kernel

/-- V-B12: the total 2^32 - 1 is accepted, and the lesser frequency is the left child; V-B11: one more overflows. -/
theorem test_build_limit : let t := command 0x2#32 (tableOf [(0, 0xFFFFFFFE), (1, 1)])
    t.nodeLink 2#9 = 1#32 ∧ t.rootFreq = 0xFFFFFFFF#32 ∧
    (command 0x2#32 (tableOf [(0, 0xFFFFFFFF), (1, 1)])).err = 4#8 := by decide +kernel

/-- V-C1, with the words of V-C14 to V-C17. -/
theorem test_derive : command 0x3#32 abcTree = abcCodes ∧ [97#8, 98#8, 99#8, 100#8].map (fun x =>
      (abcCodes.mem.getWord (codeAddr x), abcCodes.mem.getWord (codeAddr x + 4))) =
      [(1#32, 0#32), (2#32, 0xC0000000#32), (2#32, 0x80000000#32), (0#32, 0#32)] ∧ abcCodes.statusWord = 6#32 := by
  decide +kernel

/-- V-C12: the code of a single tree. -/
theorem test_derive_single : command 0x3#32 (command 0x2#32 (tableOf [(65, 4)])) = oneCodes ∧ oneCodes.code 65#8 = [false] ∧
    oneCodes.statusWord = 0xE#32 := by decide +kernel

/-- The 23 bytes of V-L1. -/
theorem test_serialize : (command 0x4#32 abcCodes).tblOut = [0x39#8, 0x37#8, 0x20#8, 0x33#8, 0x20#8, 0x30#8, 0x0A#8, 0x39#8,
    0x38#8, 0x20#8, 0x32#8, 0x20#8, 0x31#8, 0x31#8, 0x0A#8, 0x39#8, 0x39#8, 0x20#8, 0x31#8, 0x20#8, 0x31#8, 0x30#8,
    0x0A#8] := by decide +kernel

/-- V-C24: NO_CODE. -/
theorem test_serialize_no_code : let t := command 0x4#32 abcTree
    t.err = 0x10#8 ∧ t.errFirst = 5#4 ∧ t.errArg = 4#32 ∧ t.tblOut = [] ∧ t.statusWord = 2#32 := by decide +kernel

/-- STATUS while a DECODE is active (the notation of 95_test_vectors.md). -/
theorem test_decode : command 0x5#32 abcCodes = abcDecode false ∧ command 0x15#32 abcCodes = abcDecode true ∧
    (abcDecode false).statusWord = 0x17#32 ∧ (abcDecode true).decFlags.word = 0x10#32 := by decide +kernel

/-- V-H8: NO_TREE. -/
theorem test_decodeLim : let t := command 0x15#32 State.reset
    t.err = 8#8 ∧ t.errFirst = 4#4 ∧ t.errArg = 0x15#32 := by decide +kernel

/-- V-D27 and P5 line 7: the pointer after bit 1. -/
theorem test_bit1 : let t := token 1#3 (abcDecode false)
    t.decPtr = 3#9 ∧ t.decBits = 1#32 ∧ t.statusWord = 0x17#32 ∧ t.bitIn = [] := by decide +kernel

/-- V-D23: bit 1 on a single tree, after one bit 0. -/
theorem test_bit1_single : let t := token 1#3 (token 0#3 (oneDecode false))
    t.err = 0x40#8 ∧ t.errArg = 1#32 ∧ t.symOut = [65#8] ∧ t.decCount = 1#32 ∧ t.decBits = 1#32 ∧ t.busy = false := by
  decide +kernel

/-- V-D7 before its BAD2: the pointer at leaf a, not yet emitted; V-D21's first symbol. -/
theorem test_bit0 : let t := token 0#3 (abcDecode false)
    t.decPtr = 0#9 ∧ t.symOut = [] ∧ (token 0#3 (oneDecode true)).symOut = [65#8] := by decide +kernel

/-- V-D7. -/
theorem test_bad2 : let t := token 2#3 (token 0#3 (abcDecode false))
    t.err = 0x20#8 ∧ t.errArg = 1#32 ∧ t.symOut = [] ∧ t.decPtr = 0#9 ∧ t.decFlags.word = 0#32 ∧ t.busy = false := by
  decide +kernel

/-- V-D8. -/
theorem test_bad3 : let t := token 3#3 (token 0#3 (abcDecode false))
    t.err = 0x20#8 ∧ t.errArg = 1#32 ∧ t.decPtr = 0#9 ∧ t.intPendWord = 3#32 := by decide +kernel

/-- V-D6: PARTIAL; V-D12: UNDERRUN. -/
theorem test_eos : let t := token 4#3 (token 1#3 (abcDecode false))
    t.decFlags.word = 1#32 ∧ t.decPtr = 4#9 ∧ t.symOut = [] ∧ (token 7#3 (abcDecode true)).decFlags.word = 0x14#32 := by
  decide +kernel

/-- V-D5: EOS flushes the leaf. -/
theorem test_eos_flush : let t := token 4#3 (token 1#3 (token 1#3 (abcDecode false)))
    t.symOut = [98#8] ∧ t.decCount = 1#32 ∧ t.decBits = 2#32 ∧ t.decFlags.word = 0#32 ∧ t.decPtr = 4#9 := by decide +kernel

/-! ### The host window -/

/-- V-H9, V-H10, V-H11, V-H14. -/
theorem test_bad_access : let t := host (.read 0x48#15 4) State.reset
    t.err = 0x80#8 ∧ t.errFirst = 8#4 ∧ t.errArg = 0x48#32 ∧ t.intPendWord = 2#32 ∧ t.masters = [⟨[], [0#32]⟩] ∧
    (host (.write 0#15 4 5#32) State.reset).errFirst = 8#4 ∧ (host (.read 0x402#15 4) State.reset).errArg = 0x402#32 ∧
    (host (.read 0x2FF8#15 4) State.reset).errArg = 0x2FF8#32 := by decide +kernel

/-- V-H12, V-H13, V-H15, V-H16. -/
theorem test_window_edges : (host (.read 0#15 2) State.reset).err = 0x80#8 ∧
    (host (.write 0x2000#15 4 1#32) State.reset).errArg = 0x2000#32 ∧
    (host (.read 0x4024#15 4) State.reset).masters = [⟨[], [0#32]⟩] ∧ (host (.read 0x4024#15 4) State.reset).err = 0#8 ∧
    (host (.write 0x4024#15 4 1#32) State.reset).errArg = 0x4024#32 := by decide +kernel

/-- V-H17, V-H18, V-H4. -/
theorem test_window_writes : (host (.write 8#15 4 6#32) State.reset).ctrlWord = 6#32 ∧
    (host (.write 8#15 4 0xFFFFFFF8#32) State.reset).ctrlWord = 0#32 ∧
    (host (.write 0x584#15 4 3#32) State.reset).freq 97#8 = 3#32 := by decide +kernel

/-- V-H20. -/
theorem test_err_clear : let s := { State.reset with err := 3#8, errFirst := 2#4, errArg := 2#32 }
    let t := host (.write 0x14#15 4 1#32) s
    t.err = 2#8 ∧ t.errFirst = 2#4 ∧ (host (.write 0x14#15 4 2#32) t).errFirst = 0#4 ∧
    (host (.write 0x14#15 4 2#32) t).errArg = 0#32 := by decide +kernel

/-- R67, R66: a token goes to the end of BIT_IN, and a sink takes the oldest byte. -/
theorem test_stream_order : (nextOf { abcRunning with source := [1#3, 4#3], turns := [.source] }).bitIn = [0#3, 1#3] ∧
    (nextOf { abcDrain with turns := [.symSink] }).symOut = [97#8, 97#8, 98#8, 98#8, 99#8] ∧
    (nextOf { abcDrain with tblOut := [0x39#8, 0x20#8], turns := [.tblSink] }).tblOut = [0x20#8] := by decide +kernel

/-- V-R1: a soft reset in a held DECODE. -/
theorem test_soft_reset : let t := host (.write 8#15 4 1#32) (token 1#3 (abcDecode false))
    t.statusWord = 0#32 ∧ t.intPendWord = 0#32 ∧ t.decPtr = 0#9 ∧ t.root = 0#9 ∧ t.freq 98#8 = 2#32 ∧ t.bitIn = [] := by
  decide +kernel

/-! ### The invariants on the states above -/

theorem abcTree_inv : TreeInv abcTree :=
  ⟨by decide +kernel, by decide +kernel, fun _ =>
    ⟨by decide +kernel, by decide +kernel, by decide +kernel, by decide +kernel, by decide +kernel⟩⟩

theorem abcCodes_inv : TreeInv abcCodes :=
  ⟨by decide +kernel, by decide +kernel, fun _ =>
    ⟨by decide +kernel, by decide +kernel, by decide +kernel, by decide +kernel, by decide +kernel⟩⟩

theorem abcRunning_inv : TreeInv abcRunning :=
  ⟨by decide +kernel, by decide +kernel, fun _ =>
    ⟨by decide +kernel, by decide +kernel, by decide +kernel, by decide +kernel, by decide +kernel⟩⟩

/-- A tree of two leaves (V-B6). -/
def pairTree : State :=
  { tableOf [(0, 5), (255, 7)] with
    mem := (tableOf [(0, 5), (255, 7)]).mem.setNodes 0 [leafOf 0#8 5#32, leafOf 255#8 7#32, innerOf 0#9 1#9 12#32]
    nsym := 2#9
    nnode := 3#9
    root := 2#9
    rootFreq := 12#32
    treeValid := true }

theorem pairTree_inv : TreeInv pairTree :=
  ⟨by decide +kernel, by decide +kernel, fun _ =>
    ⟨by decide +kernel, by decide +kernel, by decide +kernel, by decide +kernel, by decide +kernel⟩⟩

/-- The table of V-B7: every frequency 1. -/
def fullTable : State :=
  allSymbols.foldl (fun t sym => t.setFreq sym 1#32) { State.reset with freqUnwritten := [] }

theorem fullTable_freq (x : Byte) : fullTable.mem.wf = true ∧ fullTable.freq x = 1#32 := by
  have h := State.freq_foldl_setFreq 1#32 x allSymbols { State.reset with freqUnwritten := [] } rfl
  have hx : x ∈ allSymbols := List.mem_map.mpr ⟨x.toNat, List.mem_range.mpr x.isLt, by simp⟩
  exact ⟨h.1, by rw [fullTable, h.2, if_pos hx]⟩

/-! ### States and operands that meet the hypotheses of each statement -/

theorem witness_DecodeOfEncode : ∀ i ∈ [Instr.nop, .clear, .build, .derive, .serialize, .decode, .decodeLim, .illegalOp6 7#32,
    .illegalOp8 0xFFFFFFFF#32, .illegalReserved 0x14#32, .bit0, .bit1, .bad2, .bad3, .eos 3#2], i.wellFormed = true := by
  decide

theorem witness_StepRunsDecoded_command : let s := { abcTree.writeCmd 3#32 with turns := [.engine, .source] }
    s.turns = [.engine, .source] ∧ s.pend = some 3#32 ∧ s.decActive = false := by decide +kernel

theorem witness_StepRunsDecoded_token : abcRunning.turns = [.engine] ∧ abcRunning.pend = some 0x15#32 ∧
    abcRunning.decActive = true ∧ abcRunning.bitIn = [0#3] := by decide +kernel

theorem witness_StepRunsDecoded_holds : let s := { abcRunning with bitIn := [] }
    s.turns = [.engine] ∧ s.pend = some 0x15#32 ∧ s.decActive = true ∧ s.bitIn = [] := by decide +kernel

theorem witness_StepRunsDecoded_default_command : let s := abcTree.writeCmd 3#32
    s.turns = [] ∧ s.pend = some 3#32 ∧ s.decActive = false := by decide +kernel

theorem witness_StepRunsDecoded_default_token : let s := { abcRunning with turns := [] }
    s.turns = [] ∧ s.pend = some 0x15#32 ∧ s.decActive = true ∧ s.bitIn = [0#3] := by decide +kernel

/-- A master about to read ROOT, while a command is in progress or not. -/
def rootReader (busy : Bool) : State :=
  { abcTree with
    pend := if busy then some 3#32 else none
    masters := [{ todo := [.read 0x02C#15 4], got := [] }]
    turns := [.host 0] }

theorem witness_StepPerformsAccess : ∀ busy, (rootReader busy).turns = [.host 0] ∧
    (rootReader busy).masters[0]? = some { todo := [.read 0x02C#15 4], got := [] } ∧
    (rootReader busy).stalls (.read 0x02C#15 4) = busy := by decide +kernel

theorem witness_StepPerformsAccess_source : ∀ empty : Bool,
    let s := { abcRunning with source := if empty then [] else [1#3, 4#3], turns := [.source] }
    s.turns = [.source] ∧ s.source = if empty then [] else [1#3, 4#3] := by decide +kernel

theorem witness_StepPerformsAccess_sinks : ∀ empty : Bool,
    let s := { abcDrain with symOut := if empty then [] else abcDrain.symOut, turns := [.symSink] }
    let t := { abcDrain with tblOut := if empty then [] else [0x39#8, 0x20#8], turns := [.tblSink] }
    s.turns = [.symSink] ∧ (s.symOut = [] ↔ empty = true) ∧ t.turns = [.tblSink] ∧ (t.tblOut = [] ↔ empty = true) := by
  decide +kernel

theorem witness_CommandsCompleteInOneStep : State.reset.treeValid = false ∧ abcTree.treeValid = true ∧
    ¬(0x4#32 = 0x5#32 ∨ 0x4#32 = 0x15#32) := by decide +kernel

theorem witness_ErrorsDoNotBlock : let s' := { abcTree with err := 2#8, errFirst := 2#4, errArg := 2#32, intErr := true }
    s' = { abcTree with err := s'.err, errFirst := s'.errFirst, errArg := s'.errArg, intErr := s'.intErr } ∧
      s' ≠ abcTree := ⟨rfl, by decide +kernel⟩

/-- A DECODE that waits for a token, with a master stalled on ROOT (93 I10). -/
def hung : State := { abcDecode false with masters := [{ todo := [.read 0x02C#15 4], got := [] }] }

theorem witness_OnlyHungStops_hung : Hung hung := by
  refine ⟨by decide +kernel, by decide +kernel, by decide +kernel, by decide +kernel, by decide +kernel, fun m a h => ?_⟩
  match m with
  | 0 =>
    cases h
    decide +kernel
  | k + 1 => cases h

theorem witness_OnlyHungStops_fault : step hung = .fault .stuck := by
  have : (match step hung with | .fault .stuck => true | _ => false) = true := by decide +kernel
  revert this
  cases step hung with
  | next t => exact nofun
  | fault r => cases r; exact fun _ => rfl
  | refused r => exact nofun

/-- The run has ended by R200, tokens left at the source and a turn to come; the second state is quiet too. -/
theorem witness_OnlyHungStops_ended : State.runEnded { abcTree with source := [0#3], turns := [.source] } = true ∧
    Quiet abcTree ∧ hung.runEnded = false := by decide +kernel

theorem witness_ClearEmptiesTable : (0x3FF < 0x400 ∨ 0x800 ≤ 0x3FF) ∧ (0x800 < 0x400 ∨ 0x800 ≤ 0x800) := by decide

theorem witness_IllegalRaisesItsWord : Instr.illegalReserved 0x10#32 = decodeCmd 0x10#32 ∧
    0x10#32 ∉ [0x0#32, 0x1#32, 0x2#32, 0x3#32, 0x4#32, 0x5#32, 0x15#32] ∧
    Instr.illegalOp8 8#32 ∈ [Instr.illegalOp6 8#32, Instr.illegalOp8 8#32, Instr.illegalReserved 8#32] := by decide

theorem witness_BuildOfEmptyTable : ∀ sym, (tableOf []).freq sym = 0#32 := by decide +kernel

theorem witness_BuildOfTooLargeTotal : (tableOf [(0, 0xFFFFFFFF), (1, 1)]).freqSum = 0xFFFFFFFF + 1 := by decide +kernel

theorem witness_BuildResults : abcTable.mem.wf = true ∧ abcTable.presentSymbols.length = 3 ∧ abcTable.freqSum = 6 := by
  decide +kernel

theorem witness_BuildResults_single : let s := tableOf [(128, 0xFFFFFFFF)]
    s.mem.wf = true ∧ s.presentSymbols.length = 1 ∧ s.freqSum = 0xFFFFFFFF := by decide +kernel

theorem witness_BuildResults_full : fullTable.mem.wf = true ∧ fullTable.presentSymbols.length = 256 ∧
    fullTable.freqSum = 256 := by
  refine ⟨(fullTable_freq 0#8).1, ?_, ?_⟩
  · simp [State.presentSymbols, (fullTable_freq _).2, allSymbols]
  · simp only [State.freqSum, (fullTable_freq _).2]
    decide +kernel

theorem witness_BuildPlacesLeaves : 0 < abcTable.presentSymbols.length ∧ 2 < abcTable.presentSymbols.length ∧
    abcTable.mem.wf = true ∧ abcTable.freqSum ≤ 0xFFFFFFFF := by decide +kernel

theorem witness_BuildCombinesLeastKeys : abcTable.mem.wf = true ∧ abcTable.presentSymbols.length = 3 ∧ 0 + 1 < 3 ∧
    1 + 1 < 3 ∧ abcTable.freqSum ≤ 0xFFFFFFFF := by decide +kernel

theorem witness_ParentFrequenciesRise : abcTable.mem.wf = true ∧ abcTable.presentSymbols.length = 3 ∧ 0 + 2 < 3 ∧
    abcTable.freqSum ≤ 0xFFFFFFFF := by decide +kernel

theorem witness_EqualTablesEqualTrees : abcTable.mem.wf = true ∧ abcCodes.mem.wf = true ∧ abcTable ≠ abcCodes ∧
    ∀ sym, abcTable.freq sym = abcCodes.freq sym := by decide +kernel

theorem witness_MissingInputStopsCommands : State.reset.treeValid = false ∧
    (∀ i ∈ [Instr.derive, .decode, .decodeLim], i ∈ [Instr.derive, .decode, .decodeLim]) ∧
    abcTree.codeValid = false ∧ abcTree.treeValid = true := by decide +kernel

theorem witness_CodesArePaths : abcTree.mem.wf = true ∧ TreeInv abcTree ∧ abcTree.treeValid = true ∧
    abcTree.single = false ∧ 2 < abcTree.nsym.toNat ∧ ∀ j, j < abcTree.nsym.toNat → abcTree.symAt j ≠ 0#8 :=
  ⟨by decide +kernel, abcTree_inv, by decide +kernel, by decide +kernel, by decide +kernel, by decide +kernel⟩

theorem witness_CodesArePaths_pair : pairTree.mem.wf = true ∧ TreeInv pairTree ∧ pairTree.treeValid = true ∧
    pairTree.single = false ∧ pairTree.nsym = 2#9 :=
  ⟨by decide +kernel, pairTree_inv, by decide +kernel, by decide +kernel, by decide +kernel⟩

theorem witness_SingleSymbolCode : oneCodes.mem.wf = true ∧ oneCodes.treeValid = true ∧ oneCodes.single = true ∧
    0#8 ≠ oneCodes.symAt 0 := by decide +kernel

theorem witness_DeriveWritesOnlyCodes : abcTree.mem.wf = true ∧ abcTree.treeValid = true := by decide +kernel

theorem witness_CodesAreBeginningFree : abcTree.mem.wf = true ∧ TreeInv abcTree ∧ abcTree.treeValid = true ∧
    98#8 ≠ 99#8 ∧ abcCodes.codeLen 98#8 ≠ 0#8 ∧ abcCodes.codeLen 99#8 ≠ 0#8 :=
  ⟨by decide +kernel, abcTree_inv, by decide +kernel, by decide, by decide +kernel, by decide +kernel⟩

theorem witness_CodeLengthsFillTree : abcTree.mem.wf = true ∧ TreeInv abcTree ∧ abcTree.treeValid = true ∧
    abcTree.single = false := ⟨by decide +kernel, abcTree_inv, by decide +kernel, by decide +kernel⟩

theorem witness_SerializeEmitsLines : let f : Byte → Word := fun x => if x = 97#8 then 3#32 else if x = 98#8 then 2#32 else 1#32
    TreeInv abcCodes ∧ abcCodes.treeValid = true ∧ abcCodes.codeValid = true ∧
    (∀ j, j < abcCodes.nsym.toNat → f (abcCodes.symAt j) = abcCodes.nodeFreq (BitVec.ofNat 9 j)) ∧
    ∀ sym, abcCodes.codeLen sym ≠ 0#8 → ∃ j, j < abcCodes.nsym.toNat ∧ abcCodes.symAt j = sym :=
  ⟨abcCodes_inv, by decide +kernel, by decide +kernel, by decide +kernel, by decide +kernel⟩

theorem witness_DecimalDigits : (emitDec 0#32).head? = some 0x30#8 := by decide

theorem witness_DecodeStarts : abcTree.treeValid = true ∧
    (Instr.decodeLim, true) ∈ [(Instr.decode, false), (Instr.decodeLim, true)] := by decide +kernel

/-- The pointer at leaf a in RUN mode, below the limit (V-D9), and where the flush reaches it (V-D3: ROOT_FREQ 6). -/
theorem witness_EosEndsDecode_leaf : ∀ last : Bool, let s := { abcRunning with decCount := if last then 5#32 else 0#32 }
    s.dmode = .run ∧ s.single = false ∧ s.isLeaf s.decPtr = true ∧ s.decFlags.lim = true ∧
      (s.decCount + 1#32 = s.rootFreq ↔ last = true) ∧
      ((s.decCount + 1#32).toNat < s.rootFreq.toNat ↔ last = false) := by decide +kernel

theorem witness_EosEndsDecode_inner : let s := { abcDecode false with decPtr := 3#9, decBits := 1#32 }
    s.dmode = .run ∧ s.single = false ∧ s.isLeaf s.decPtr = false ∧ s.decPtr ≠ s.root := by decide +kernel

theorem witness_EosEndsDecode_root : let s := abcDecode true
    s.isLeaf s.decPtr = false ∧ s.decPtr = s.root ∧ s.decFlags.lim = true ∧ s.decCount.toNat < s.rootFreq.toNat := by
  decide +kernel

theorem witness_EosEndsDecode_single : (oneDecode true).single = true ∧ (oneDecode true).dmode = .run := by decide +kernel

theorem witness_EosEndsDecode_drain : abcDrain.dmode = .drain ∧ abcDrain.decCount = abcDrain.rootFreq ∧
    abcDrain.decFlags.limitHit = true := by decide +kernel

theorem witness_BitDescends : ∀ v : Bool, let s := abcDecode false
    s.dmode = .run ∧ s.single = false ∧ s.isLeaf s.decPtr = false ∧
      (if v then s.right s.decPtr else s.left s.decPtr) ≠ 0x1FF#9 := by decide +kernel

theorem witness_BitAtLeafEmits : ∀ v : Bool, abcRunning.dmode = .run ∧ abcRunning.single = false ∧
    abcRunning.isLeaf abcRunning.decPtr = true ∧
    ¬(abcRunning.decFlags.lim = true ∧ abcRunning.decCount + 1#32 = abcRunning.rootFreq) ∧
    (if v then abcRunning.right abcRunning.root else abcRunning.left abcRunning.root) ≠ 0x1FF#9 := by decide +kernel

theorem witness_BitAtLeafEmits_limit : let s := { abcRunning with decCount := 5#32 }
    s.dmode = .run ∧ s.single = false ∧ s.isLeaf s.decPtr = true ∧ s.decFlags.lim = true ∧
      s.decCount + 1#32 = s.rootFreq := by decide +kernel

/-- A state no run reaches: NODE[0] is no leaf and both its children are NIL. -/
def nilTree : State := { State.reset with treeValid := true, mem := Memory.setWord [] 0x2004 0x0003FFFF#32 }

theorem witness_NilChildIsCorrupt_inner : ∀ v : Bool, nilTree.dmode = .run ∧ nilTree.single = false ∧
    nilTree.isLeaf nilTree.decPtr = false ∧
    (if v then nilTree.right nilTree.decPtr else nilTree.left nilTree.decPtr) = 0x1FF#9 := by decide +kernel

/-- Another: the root is a leaf, on a tree that is not single. -/
theorem witness_NilChildIsCorrupt_leaf : ∀ v : Bool, let s := { nilTree with mem := Memory.setWord [] 0x2004 0x8187FFFF#32 }
    s.dmode = .run ∧ s.single = false ∧ s.isLeaf s.decPtr = true ∧
      ¬(s.decFlags.lim = true ∧ s.decCount + 1#32 = s.rootFreq) ∧
      (if v then s.right s.root else s.left s.root) = 0x1FF#9 := by decide +kernel

theorem witness_DrainDiscardsBits : abcDrain.dmode = .drain := by decide +kernel

/-- On {65: 4} the fourth bit 0 reaches the limit, the first does not. -/
theorem witness_SingleZeroEmits : ∀ last : Bool, let s := { oneDecode true with decCount := if last then 3#32 else 0#32 }
    s.dmode = .run ∧ s.single = true ∧ s.decFlags.lim = true ∧ (s.decCount + 1#32 = s.rootFreq ↔ last = true) := by
  decide +kernel

theorem witness_SingleOneIsCorrupt : (oneDecode false).dmode = .run ∧ (oneDecode false).single = true := by decide +kernel

theorem witness_CorruptIsUnreachable : TreeInv abcRunning ∧ ControlInv abcRunning ∧ DecodeInv abcRunning ∧
    abcRunning.decActive = true ∧ abcRunning.single = false :=
  ⟨abcRunning_inv, by decide +kernel, by decide +kernel, by decide +kernel, by decide +kernel⟩

theorem witness_DecodeGivesBackInput : let input := [97#8, 97#8, 97#8, 98#8, 98#8, 99#8]
    abcTable.mem.wf = true ∧ input ≠ [] ∧ input.length < 2 ^ 32 ∧ (∀ sym, (abcTable.freq sym).toNat = input.count sym) ∧
    ∃ b d, exec .build abcTable = .next b ∧ exec .derive b = .next d :=
  ⟨by decide +kernel, by decide, by decide, by decide +kernel, _, _, rfl, rfl⟩

theorem witness_DecodeGivesBackInput_single : let u := tableOf [(65, 4)]
    let input := [65#8, 65#8, 65#8, 65#8]
    u.mem.wf = true ∧ input ≠ [] ∧ input.length < 2 ^ 32 ∧ (∀ sym, (u.freq sym).toNat = input.count sym) ∧
    ∃ b d, exec .build u = .next b ∧ exec .derive b = .next d :=
  ⟨by decide +kernel, by decide, by decide, by decide +kernel, _, _, rfl, rfl⟩

theorem witness_WritersOfMemories : abcCodes.mem.wf = true ∧ Instr.nop ≠ .clear ∧ Instr.nop ≠ .build ∧
    Instr.nop ≠ .derive := by decide +kernel

/-- The edges of the unmapped ranges, with the mapped words beside them; the edges of the writable words. -/
theorem witness_BadAccesses :
    ([0x48#15, 0x3FC#15, 0x800#15, 0x1FFC#15, 0x2FF8#15, 0x3FFC#15].map (fun off => (Access.read off 4).target.isSome) =
      [false, false, false, false, false, false]) ∧
    ([0x44#15, 0x400#15, 0x7FC#15, 0x2000#15, 0x2FF4#15, 0x4000#15, 0x7FFC#15].map
      (fun off => (Access.read off 4).target.isSome) = [true, true, true, true, true, true, true]) ∧
    ([0x000#15, 0x004#15, 0x00C#15, 0x018#15, 0x01C#15, 0x024#15, 0x044#15, 0x2000#15, 0x7FFC#15].map
      (fun off => (Access.write off 4 0#32).target.isSome) = [false, false, false, false, false, false, false, false, false]) ∧
    ([0x008#15, 0x010#15, 0x014#15, 0x020#15, 0x400#15, 0x7FC#15].map
      (fun off => (Access.write off 4 0#32).target.isSome) = [true, true, true, true, true, true]) ∧
    ([0#15, 2#15].map (fun off => (Access.read off 2).target.isSome) = [false, false]) ∧
    (0x48#15).toNat = 0x48 ∧ (0x7FFF#15).toNat % 4 ≠ 0 := by decide

/-- The edges of R192's lists, with the words beside them, while BUSY = 1. -/
theorem witness_StallRule : let s := State.reset.writeCmd 0#32
    ([0x008#15, 0x010#15, 0x024#15, 0x034#15, 0x400#15, 0x7FC#15, 0x2000#15, 0x2FF4#15, 0x4000#15, 0x7FFC#15].map
      (fun off => s.stalls (.read off 4)) = [true, true, true, true, true, true, true, true, true, true]) ∧
    ([0x000#15, 0x00C#15, 0x014#15, 0x020#15, 0x038#15, 0x044#15, 0x800#15, 0x2FF8#15].map
      (fun off => s.stalls (.read off 4)) = [false, false, false, false, false, false, false, false]) ∧
    ([0x010#15, 0x400#15, 0x7FC#15].map (fun off => s.stalls (.write off 4 0#32)) = [true, true, true]) ∧
    ([0x008#15, 0x014#15, 0x020#15, 0x2000#15].map (fun off => s.stalls (.write off 4 0#32)) =
      [false, false, false, false]) := by decide

/-- NODE[0] and NODE[4] are valid and NODE[5] is not in a tree of three leaves; a CODE word with and without codes. -/
theorem witness_MemoryReads : abcTree.treeValid = true ∧ 0 < abcTree.nnode.toNat ∧ 4 < abcTree.nnode.toNat ∧
    abcTree.nnode.toNat ≤ 5 ∧ abcTree.nnode.toNat ≤ 510 ∧ abcTree.codeValid = false ∧ abcCodes.codeValid = true ∧
    State.reset.treeValid = false := by decide +kernel

theorem witness_FreqWriteThenRead : abcTree.mem.wf = true ∧ 0#8 ≠ 255#8 := by decide +kernel

theorem witness_ErrWriteClears : ∀ all : Bool, let s := { State.reset with err := 3#8, errFirst := 1#4, errArg := 6#32 }
    (s.access (.write 0x014#15 4 (if all then 3#32 else 1#32))).1.err = 0#8 ↔ all = true := by decide +kernel

theorem witness_CtrlWriteSetsEnables : (6#32).getLsbD 0 = false := by decide

theorem witness_SoftReset : abcRunning.mem.wf = true ∧ (1#32).getLsbD 0 = true ∧ abcRunning.pend ≠ some 1#32 ∧
    (abcTree.writeCmd 1#32).mem.wf = true ∧ (abcTree.writeCmd 1#32).pend = some 1#32 := by decide +kernel

theorem witness_PowerOnReset : { abcTree with turns := [.power] }.turns = [.power] := rfl

theorem witness_RaiseRecordsCause : State.reset.err = 0#8 ∧ (State.reset.raise .empty 2#32).err ≠ 0#8 := by decide

/-- One state and step for the invariants: a DECODE.LIM takes a bit. -/
theorem witness_StepKeepsTree : abcRunning.mem.wf = true ∧ TreeInv abcRunning ∧ abcRunning.treeValid = true ∧
    ∃ t, step abcRunning = .next t := ⟨by decide +kernel, abcRunning_inv, by decide +kernel, step_engine_next rfl⟩

theorem witness_StepKeepsDecoder : abcRunning.mem.wf = true ∧ TreeInv abcRunning ∧ ControlInv abcRunning ∧
    DecodeInv abcRunning ∧ abcRunning.decActive = true ∧ ∃ t, step abcRunning = .next t :=
  ⟨by decide +kernel, abcRunning_inv, by decide +kernel, by decide +kernel, by decide +kernel, step_engine_next rfl⟩

theorem witness_StepKeepsControl : ControlInv abcRunning ∧ abcRunning.codeValid = true ∧ abcRunning.decActive = true ∧
    ∃ t, step abcRunning = .next t := ⟨by decide +kernel, by decide +kernel, by decide +kernel, step_engine_next rfl⟩

theorem witness_StepKeepsCodes : abcRunning.mem.wf = true ∧ CodeInv abcRunning ∧ abcRunning.codeValid = true ∧
    ∃ t, step abcRunning = .next t := ⟨by decide +kernel, by decide +kernel, by decide +kernel, step_engine_next rfl⟩

/-- BUILD on the full table writes memory. -/
theorem witness_StepKeepsMemoryForm : abcTable.mem.wf = true ∧
    ∃ t, step { abcTable with pend := some 2#32, turns := [.engine] } = .next t :=
  ⟨by decide +kernel, step_engine_next rfl⟩

/-- NOP after an error, and an ILLEGAL word over it. -/
theorem witness_StepKeepsErrorCapture : let s := { State.reset.raise .empty 2#32 with pend := some 6#32, turns := [.engine] }
    ErrInv s ∧ s.err ≠ 0#8 ∧ ∃ t, step s = .next t := ⟨by decide, by decide, step_engine_next rfl⟩

end Sys2Proof.Tests
end

section
/-! SUPPORT. What a step can do to an invariant of the block: the fields outside the block that every invariant ignores, the
cases of a step an invariant has to be checked on, and what the engine fetches. -/

namespace Sys2Proof.Machine

/-! ### What lies outside the block's registers and memories -/

/-- `s` with the streams, the draws and the agents of `o`. -/
def State.withOutside (s o : State) : State :=
  { s with
    bitIn := o.bitIn
    symOut := o.symOut
    tblOut := o.tblOut
    draws := o.draws
    masters := o.masters
    source := o.source
    turns := o.turns }

/-- A soft reset, whatever command it aborts, ends in the reset of the registers, over memories that stay canonical (R103). -/
theorem State.softReset_eq_resetRegisters (s : State) :
    ∃ r : State, s.softReset = r.resetRegisters ∧ (s.mem.wf = true → r.mem.wf = true) := by
  unfold State.softReset
  split
  · refine ⟨s.abortClear, rfl, fun h => ?_⟩
    obtain ⟨m, u, he, hm, -⟩ := State.abortClear_spec h
    rw [he]
    exact hm
  · exact ⟨s, rfl, id⟩

/-- A power-on reset leaves the registers as `resetRegisters` does, over an empty memory (R187, R188). -/
theorem State.powerOn_eq_resetRegisters (s : State) : s.powerOn = s.powerOn.resetRegisters := rfl

/-! ### The cases of a step -/

/-- `P` holds after whatever one turn does to a state with `I`. Both ignore the fields outside the block. -/
structure KeptByTurns (I P : State → Prop) : Prop where
  /-- A turn that passes. -/
  same : ∀ {s}, I s → P s
  /-- The used turn, a token taken. -/
  outsideBefore : ∀ {s} (o), I s → I (s.withOutside o)
  /-- A token appended, a byte taken by a sink, a value drawn, an access performed. -/
  outsideAfter : ∀ {s} (o), P s → P (s.withOutside o)
  /-- A command or a token runs. -/
  ran : ∀ {s t} {i : Instr}, I s → (i = .decode → s.pend = some 0x5#32) → (i = .decodeLim → s.pend = some 0x15#32) →
    exec i s = .next t → P t
  /-- A bad access. -/
  badAccess : ∀ {s} (arg), I s → P (s.raise .badacc arg)
  /-- A write to CTRL that sets the enables. -/
  enables : ∀ {s} (d e), I s → P { s with ieDone := d, ieErr := e }
  /-- A reset, soft or power-on. -/
  restarted : ∀ {s r : State}, I s → (s.mem.wf = true → r.mem.wf = true) → P r.resetRegisters
  /-- A write to CMD, which stalls while a command is in progress. -/
  issued : ∀ {s} (v), I s → s.pend = none → P (s.writeCmd v)
  /-- A write to ERR. -/
  errWritten : ∀ {s} (v), I s → P (s.writeErr v)
  /-- A write to INT_PEND. -/
  intPendWritten : ∀ {s} (v), I s → P (s.writeIntPend v)
  /-- A write to FREQ. -/
  freqWritten : ∀ {s} (sym v), I s → P (s.setFreq sym v)

/-! ### What the engine fetches -/

theorem State.fetched_cmd {s : State} {w : Word} (h : s.fetched = some (.cmd w)) : s.pend = some w := by
  unfold State.fetched at h
  split at h
  · cases h
  · split at h
    · simp at h
    · obtain rfl := Encoded.cmd.inj (Option.some.inj h)
      assumption

/-- A word with OP 5 and bits 31:5 zero is one of the two start words, by its bit 4 (R75). -/
theorem startWord_eq {w : Word} (hop : w.extractLsb' 0 4 = 5#4) (hup : w.extractLsb' 5 27 = 0#27) :
    w = if w.getLsbD 4 then 0x15#32 else 0x5#32 := by
  have h0 := congrArg BitVec.toNat hop
  have h5 := congrArg BitVec.toNat hup
  have h4 : w.getLsbD 4 = decide (w.toNat / 2 ^ 4 % 2 = 1) := Nat.testBit_eq_decide_div_mod_eq
  simp only [BitVec.extractLsb'_toNat, Nat.shiftRight_eq_div_pow, BitVec.toNat_ofNat] at h0 h5
  apply BitVec.eq_of_toNat_eq
  rw [h4]
  split
  · simp only [decide_eq_true_eq, BitVec.toNat_ofNat] at *
    omega
  · simp only [decide_eq_true_eq, BitVec.toNat_ofNat] at *
    omega

theorem illegalRow_ne_decode (w : Word) : illegalRow w ≠ .decode ∧ illegalRow w ≠ .decodeLim := by
  unfold illegalRow
  split
  · simp
  · split <;> simp

/-- Only its own word is decoded as DECODE, and only its own as DECODE.LIM (R76). -/
theorem decodeCmd_decode (w : Word) :
    (decodeCmd w = .decode → w = 0x5#32) ∧ (decodeCmd w = .decodeLim → w = 0x15#32) := by
  by_cases h : w.extractLsb' 0 4 = 5#4 ∧ w.extractLsb' 5 27 = 0#27
  · have hw := startWord_eq h.1 h.2
    have hd : decodeCmd w = if w.getLsbD 4 then .decodeLim else .decode := if_pos h
    cases hbit : w.getLsbD 4 <;> rw [hbit] at hw hd <;> simpa [hd] using hw
  · unfold decodeCmd
    rw [if_neg h]
    split
    · split <;> simp
    · simp [illegalRow_ne_decode]

theorem decodeTok_ne_decode (t : Token) : decodeTok t ≠ .decode ∧ decodeTok t ≠ .decodeLim := by
  revert t
  decide

/-- A DECODE the engine fetches is its word in PEND. -/
theorem State.fetched_decode {s : State} {e : Encoded} (h : s.fetched = some e) :
    (decodeEncoded e = .decode → s.pend = some 0x5#32) ∧ (decodeEncoded e = .decodeLim → s.pend = some 0x15#32) := by
  cases e with
  | cmd w =>
    rw [State.fetched_cmd h]
    exact ⟨fun hw => congrArg some ((decodeCmd_decode w).1 hw), fun hw => congrArg some ((decodeCmd_decode w).2 hw)⟩
  | tok t => exact ⟨fun hw => absurd hw (decodeTok_ne_decode t).1, fun hw => absurd hw (decodeTok_ne_decode t).2⟩

/-- A write to CMD that does not stall finds no command in progress (R192). -/
theorem State.pend_eq_none_of_cmd_write {s : State} {a : Access} (ht : a.target = some (.reg .cmd))
    (hw : a.isWrite = true) (hs : s.stalls a = false) : s.pend = none := by
  simpa [State.stalls, ht, hw, Loc.writeStalls, State.busy] using hs

variable {I P : State → Prop}

theorem KeptByTurns.access {s : State} {a : Access} (K : KeptByTurns I P) (h : I s) (hs : s.stalls a = false) :
    P (s.access a).1 := by
  rcases State.access_cases (s := s) (a := a) with ⟨-, he⟩ | ⟨l, -, -, he | he⟩ | ⟨l, v, ht, hw, hl, he⟩
  · rw [he]
    exact K.badAccess _ h
  · rw [he]
    exact K.same h
  · rw [he]
    exact K.outsideAfter { s with draws := s.draws + 1 } (K.same h)
  · rw [he]
    rcases State.writeLoc_cases (s := s) hl v with ⟨-, hv⟩ | ⟨rfl, hv⟩ | ⟨-, hv⟩ | ⟨-, hv⟩ | ⟨sym, -, hv⟩
    · rw [hv]
      unfold State.writeCtrl
      split
      · obtain ⟨r, hr, hwf⟩ := s.softReset_eq_resetRegisters
        rw [hr]
        exact K.restarted h hwf
      · exact K.enables _ _ h
    · rw [hv]
      exact K.issued v h (State.pend_eq_none_of_cmd_write ht hw hs)
    · rw [hv]
      exact K.errWritten v h
    · rw [hv]
      exact K.intPendWritten v h
    · rw [hv]
      exact K.freqWritten sym v h

theorem KeptByTurns.turned {s t : State} (K : KeptByTurns I P) (h : I s) (ht : Turned s t) : P t := by
  cases ht with
  | same => exact K.same h
  | ran e hf ht =>
    obtain ⟨hd, hl⟩ := State.fetched_decode hf
    cases e with
    | cmd w => exact K.ran h hd hl ht
    | tok x => exact K.ran (K.outsideBefore { s with bitIn := s.bitIn.tail } h) hd hl ht
  | performed m a hn hs =>
    exact K.outsideAfter { (s.access a).1 with masters := (s.access a).1.masters.modify m (fun h => h.done (s.access a).2) }
      (K.access h hs)
  | fed x xs hx => exact K.outsideAfter { s with bitIn := s.bitIn ++ [x], source := xs } (K.same h)
  | symTaken => exact K.outsideAfter { s with symOut := s.symOut.tail } (K.same h)
  | tblTaken => exact K.outsideAfter { s with tblOut := s.tblOut.tail } (K.same h)
  | powered =>
    rw [s.powerOn_eq_resetRegisters]
    exact K.restarted h (fun _ => rfl)

/-- What every turn keeps, every step keeps. -/
theorem KeptByTurns.step {s t : State} (K : KeptByTurns I P) (h : I s) (ht : step s = .next t) : P t := by
  obtain ⟨s0, hs0 | ⟨a, rest, -, hs0⟩, hturn⟩ := step_turned ht
  · exact K.turned (hs0 ▸ h) hturn
  · refine K.turned ?_ hturn
    rw [hs0]
    exact K.outsideBefore { s with turns := rest } h

end Sys2Proof.Machine
end

section
/-! SUPPORT. What each command and token leaves, by case: BUILD, DERIVE, the bit tokens and EOS said once, then which fields
the instructions other than CLEAR, BUILD and DERIVE can change, and that at most one cause is raised. -/

namespace Sys2Proof.Machine

/-! ### The branches of BUILD, DERIVE, a bit and EOS -/

/-- BUILD fails and drops the tree, or finds a present symbol and a total of 32 bits and writes one (R109, R110). -/
theorem State.buildTree_cases (s : State) :
    (∃ c arg, s.buildTree = s.dropTree.fail c arg) ∨
      s.presentSymbols ≠ [] ∧ s.totalFreq < 2 ^ 32 ∧ s.buildTree = s.writeTree.complete := by
  unfold State.buildTree
  split
  · exact Or.inl ⟨_, _, rfl⟩
  · split
    · exact Or.inl ⟨_, _, rfl⟩
    · exact Or.inr ⟨by assumption, by omega, rfl⟩

/-- What DERIVE leaves over a tree (R123). -/
def State.derived (s : State) : State :=
  { s.storeCodes with maxlen := s.storeCodes.longestCode, codeValid := true }.complete

theorem State.deriveCodes_cases (s : State) :
    s.treeValid = true ∧ s.deriveCodes = s.derived ∨ s.deriveCodes = s.fail .noTree s.pendWord := by
  unfold State.deriveCodes
  split
  · exact Or.inl ⟨by assumption, rfl⟩
  · exact Or.inr rfl

theorem State.serializeTable_cases (s : State) :
    s.serializeTable = (s.emitTbl s.tableText).complete ∨ s.serializeTable = s.fail .noCode s.pendWord := by
  unfold State.serializeTable
  split
  · exact Or.inl rfl
  · exact Or.inr rfl

theorem State.decodeStart_cases (s : State) (lim : Bool) :
    s.treeValid = true ∧ s.decodeStart lim =
        { s with
          decActive := true, decPtr := s.root, decCount := 0#32, decBits := 0#32,
          decFlags := { DecFlags.zero with lim := lim }, dmode := .run } ∨
      s.decodeStart lim = s.fail .noTree s.pendWord := by
  unfold State.decodeStart
  split
  · exact Or.inl ⟨by assumption, rfl⟩
  · exact Or.inr rfl

/-- The state a bit descends in: before it a leaf the pointer stood at was emitted, without reaching the limit (R144). -/
inductive BeforeDescent (s : State) : State → Prop where
  | inner (hl : s.isLeaf s.decPtr = false) : BeforeDescent s s
  | emitted (hl : s.isLeaf s.decPtr = true) (hlim : s.atLimit (s.decCount + 1#32) = false) : BeforeDescent s s.emitLeaf

/-- What a bit token leaves (R144 to R147). -/
inductive BitDone (s : State) (v : Bool) : State → Prop where
  /-- DRAIN: the bit is counted (R145). -/
  | drained (hd : s.dmode = .drain) : BitDone s v s.drainBit
  /-- Bit 1 on a single tree (R147). -/
  | refused (hr : s.dmode = .run) (h1 : s.single = true) : BitDone s v (s.fail .corrupt s.decBits)
  /-- Bit 0 on a single tree (R146). -/
  | single (hr : s.dmode = .run) (h1 : s.single = true) : BitDone s v s.countBit.emitLeaf
  /-- The emission of the leaf reaches the limit: the bit is not used (R144). -/
  | reached (hr : s.dmode = .run) (h1 : s.single = false) (hlim : s.atLimit (s.decCount + 1#32) = true) :
      BitDone s v s.emitLeaf.countBit
  /-- The child is NIL (R144, R152). -/
  | lost {u : State} (hr : s.dmode = .run) (h1 : s.single = false) (hu : BeforeDescent s u) :
      BitDone s v (u.fail .corrupt u.decBits)
  /-- The pointer goes to the child (R144). -/
  | descended {u : State} (hr : s.dmode = .run) (h1 : s.single = false) (hu : BeforeDescent s u) :
      BitDone s v { u.countBit with decPtr := u.child u.decPtr v }

theorem BeforeDescent.bitDone {s u : State} {v : Bool} (hr : s.dmode = .run) (h1 : s.single = false)
    (hu : BeforeDescent s u) : BitDone s v (u.descend v) := by
  unfold State.descend
  split
  · exact .lost hr h1 hu
  · exact .descended hr h1 hu

theorem State.dmode_run_iff (s : State) : s.dmode = .run ↔ ¬ s.dmode = .drain := by
  cases s.dmode <;> decide

theorem State.bitToken_done (s : State) (v : Bool) : BitDone s v (s.bitToken v) := by
  unfold State.bitToken
  split
  · exact .drained (by assumption)
  · have hr : s.dmode = .run := s.dmode_run_iff.2 (by assumption)
    split
    · unfold State.singleBit
      split
      · exact .refused hr (by assumption)
      · exact .single hr (by assumption)
    · have h1 : s.single = false := eq_false_of_ne_true (by assumption)
      unfold State.multiBit
      split
      · cases hlim : s.atLimit (s.decCount + 1#32)
        · rw [if_neg (by simp [hlim, hr])]
          exact (BeforeDescent.emitted (by assumption) hlim).bitDone hr h1
        · rw [if_pos (by simp [hlim])]
          exact .reached hr h1 hlim
      · exact (BeforeDescent.inner (eq_false_of_ne_true (by assumption))).bitDone hr h1

/-- The first part of EOS: nothing, PARTIAL, or the emission of the leaf the pointer stands at (R142). -/
theorem State.flush_cases (s : State) :
    s.flush = s ∨ s.flush = { s with decFlags := { s.decFlags with partialCode := true } } ∨ s.flush = s.emitLeaf := by
  unfold State.flush
  split
  · split
    · exact Or.inr (Or.inr rfl)
    · split
      · exact Or.inr (Or.inl rfl)
      · exact Or.inl rfl
  · exact Or.inl rfl

/-! ### What the instructions that write no memory can change -/

/-- `s` with the command's progress, the error registers, the decoder's registers and the output streams of `o`. -/
def State.withRun (s o : State) : State :=
  { s with
    pend := o.pend
    decActive := o.decActive
    intDone := o.intDone
    err := o.err
    errFirst := o.errFirst
    errArg := o.errArg
    intErr := o.intErr
    decCount := o.decCount
    decBits := o.decBits
    decFlags := o.decFlags
    decPtr := o.decPtr
    dmode := o.dmode
    symOut := o.symOut
    tblOut := o.tblOut }

theorem BeforeDescent.eq_withRun {s u : State} (h : BeforeDescent s u) : u = s.withRun u := by
  cases h <;> rfl

theorem BitDone.eq_withRun {s t : State} {v : Bool} (h : BitDone s v t) : t = s.withRun t := by
  cases h with
  | drained => rfl
  | refused => rfl
  | single => rfl
  | reached => rfl
  | lost _ _ hu => cases hu <;> rfl
  | descended _ _ hu => cases hu <;> rfl

/-- NOP, SERIALIZE, DECODE, an illegal word and a token leave FREQ, NODE, CODE, the tree's registers, CTRL, CMD and BIT_IN. -/
theorem exec_eq_withRun {i : Instr} {s t : State} (h : exec i s = .next t) (hc : i ≠ .clear) (hb : i ≠ .build)
    (hd : i ≠ .derive) : t = s.withRun t := by
  cases i with
  | clear => exact absurd rfl hc
  | build => exact absurd rfl hb
  | derive => exact absurd rfl hd
  | nop => cases h; rfl
  | serialize => cases h; rcases s.serializeTable_cases with he | he <;> rw [he] <;> rfl
  | decode => cases h; rcases s.decodeStart_cases false with ⟨-, he⟩ | he <;> rw [he] <;> rfl
  | decodeLim => cases h; rcases s.decodeStart_cases true with ⟨-, he⟩ | he <;> rw [he] <;> rfl
  | illegalOp6 w => cases h; rfl
  | illegalOp8 w => cases h; rfl
  | illegalReserved w => cases h; rfl
  | bit0 => cases h; exact (s.bitToken_done false).eq_withRun
  | bit1 => cases h; exact (s.bitToken_done true).eq_withRun
  | bad2 => cases h; rfl
  | bad3 => cases h; rfl
  | eos d => cases h; rcases s.flush_cases with he | he | he <;> rw [he] <;> rfl

end Sys2Proof.Machine
end

section
/-! SUPPORT. O54, O55, O56: the memories' canonical form, the error capture and the control bits are kept by every step. -/

namespace Sys2Proof.Machine

/-! ### The memories -/

theorem Memory.wf_foldl_storeCode {m : Memory} (h : m.wf = true) (l : List (Byte × Code)) :
    (l.foldl (fun m p => m.storeCode p.1 p.2) m).wf = true := by
  induction l generalizing m with
  | nil => exact h
  | cons p l ih =>
    rw [List.foldl_cons]
    exact ih (Memory.wf_storeCode h p.1 p.2)

theorem State.wf_storeCodes {s : State} (h : s.mem.wf = true) : s.storeCodes.mem.wf = true :=
  Memory.wf_foldl_storeCode (Memory.wf_clearCodes h) _

/-- The three ways an instruction writes memory: CLEAR, a successful BUILD, a successful DERIVE. -/
theorem exec_mem_cases {i : Instr} {s t : State} (h : exec i s = .next t) :
    t.mem = s.mem ∨ i = .clear ∧ t.mem = s.mem.zeroRange 0x400 0x800 ∨
      (i = .build ∧ s.presentSymbols ≠ [] ∧ t.mem = s.mem.setNodes 0 (treeNodes s.leaves)) ∨
      i = .derive ∧ t.mem = s.storeCodes.mem := by
  by_cases hc : i = .clear
  · subst hc
    cases h
    exact Or.inr (Or.inl ⟨rfl, rfl⟩)
  by_cases hb : i = .build
  · subst hb
    cases h
    rcases s.buildTree_cases with ⟨c, arg, he⟩ | ⟨hp, -, he⟩
    · exact Or.inl (by rw [he]; rfl)
    · exact Or.inr (Or.inr (Or.inl ⟨rfl, hp, by rw [he]; rfl⟩))
  by_cases hd : i = .derive
  · subst hd
    cases h
    rcases s.deriveCodes_cases with ⟨-, he⟩ | he
    · exact Or.inr (Or.inr (Or.inr ⟨rfl, by rw [he]; rfl⟩))
    · exact Or.inl (by rw [he]; rfl)
  rw [exec_eq_withRun h hc hb hd]
  exact Or.inl rfl

theorem exec_wf {i : Instr} {s t : State} (hs : s.mem.wf = true) (h : exec i s = .next t) : t.mem.wf = true := by
  rcases exec_mem_cases h with he | ⟨-, he⟩ | ⟨-, -, he⟩ | ⟨-, he⟩ <;> rw [he]
  · exact hs
  · exact Memory.wf_zeroRange hs _ _
  · exact Memory.wf_setNodes hs _ _
  · exact State.wf_storeCodes hs

/-- Settles O54: each write to a memory goes through an operation that keeps the form. -/
theorem stepKeepsMemoryForm : Obligations.StepKeepsMemoryForm := fun _ _ hs ht =>
  KeptByTurns.step (I := fun s => s.mem.wf = true) (P := fun s => s.mem.wf = true)
    { same := id
      outsideBefore := fun _ h => h
      outsideAfter := fun _ h => h
      ran := fun h _ _ he => exec_wf h he
      badAccess := fun _ h => h
      enables := fun _ _ h => h
      restarted := fun h hr => hr h
      issued := fun _ h _ => h
      errWritten := fun _ h => h
      intPendWritten := fun _ h => h
      freqWritten := fun _ _ h => Memory.wf_setWord h _ _ } hs ht

/-! ### The error capture -/

/-- `t` has the error registers of `s`, or those that raising one cause leaves (R168). -/
def AtMostRaised (s t : State) : Prop := SameErr s t ∨ ∃ c arg, SameErr (s.raise c arg) t

theorem SameErr.refl (s : State) : SameErr s s := ⟨rfl, rfl, rfl, rfl⟩

theorem AtMostRaised.refl (s : State) : AtMostRaised s s := Or.inl (SameErr.refl s)

theorem SameErr.atMostRaised_fail {s u : State} (h : SameErr s u) (c : Cause) (arg : Word) :
    AtMostRaised s (u.fail c arg) := by
  obtain ⟨h1, h2, h3, -⟩ := h
  exact Or.inr ⟨c, arg, by simp [h1], by simp [h1, h2], by simp [h1, h3], rfl⟩

theorem AtMostRaised.fail (s : State) (c : Cause) (arg : Word) : AtMostRaised s (s.fail c arg) :=
  (SameErr.refl s).atMostRaised_fail c arg

theorem BeforeDescent.sameErr {s u : State} (h : BeforeDescent s u) : SameErr s u := by
  cases h <;> exact SameErr.refl s

theorem BitDone.atMostRaised {s t : State} {v : Bool} (h : BitDone s v t) : AtMostRaised s t := by
  cases h with
  | drained => exact .refl s
  | refused => exact .fail s _ _
  | single => exact .refl s
  | reached => exact .refl s
  | lost _ _ hu => exact hu.sameErr.atMostRaised_fail _ _
  | descended _ _ hu => exact Or.inl hu.sameErr

theorem exec_err {i : Instr} {s t : State} (h : exec i s = .next t) : AtMostRaised s t := by
  cases i with
  | nop => cases h; exact AtMostRaised.refl s
  | clear => cases h; exact AtMostRaised.refl s
  | build =>
    cases h
    rcases s.buildTree_cases with ⟨c, arg, he⟩ | ⟨-, -, he⟩ <;> rw [he]
    · exact AtMostRaised.fail s c arg
    · exact AtMostRaised.refl s
  | derive =>
    cases h
    rcases s.deriveCodes_cases with ⟨-, he⟩ | he <;> rw [he]
    · exact AtMostRaised.refl s
    · exact AtMostRaised.fail s _ _
  | serialize =>
    cases h
    rcases s.serializeTable_cases with he | he <;> rw [he]
    · exact AtMostRaised.refl s
    · exact AtMostRaised.fail s _ _
  | decode =>
    cases h
    rcases s.decodeStart_cases false with ⟨-, he⟩ | he <;> rw [he]
    · exact AtMostRaised.refl s
    · exact AtMostRaised.fail s _ _
  | decodeLim =>
    cases h
    rcases s.decodeStart_cases true with ⟨-, he⟩ | he <;> rw [he]
    · exact AtMostRaised.refl s
    · exact AtMostRaised.fail s _ _
  | illegalOp6 w => cases h; exact AtMostRaised.fail s _ _
  | illegalOp8 w => cases h; exact AtMostRaised.fail s _ _
  | illegalReserved w => cases h; exact AtMostRaised.fail s _ _
  | bit0 => cases h; exact (s.bitToken_done false).atMostRaised
  | bit1 => cases h; exact (s.bitToken_done true).atMostRaised
  | bad2 => cases h; exact AtMostRaised.fail s _ _
  | bad3 => cases h; exact AtMostRaised.fail s _ _
  | eos d =>
    cases h
    rcases s.flush_cases with he | he | he <;> rw [he] <;> exact AtMostRaised.refl s

theorem Cause.or_bit_ne_zero (e : BitVec 8) (c : Cause) : e ||| c.bit ≠ 0#8 := by
  intro h
  have hk : c.number < 8 := Nat.lt_succ_of_le c.number_le
  have := congrArg (fun x => x.getLsbD c.number) h
  simp [c.getLsbD_bit c.number hk] at this

theorem ErrInv.raise {s : State} (h : ErrInv s) (c : Cause) (arg : Word) : ErrInv (s.raise c arg) := by
  have hc := c.number_le
  have hne := Cause.or_bit_ne_zero s.err c
  have hnum : (BitVec.ofNat 4 (c.number + 1)).toNat = c.number + 1 := Nat.mod_eq_of_lt (by omega)
  obtain ⟨hfirst, -, hle⟩ := h
  refine ⟨iff_of_false hne ?_, fun h0 => absurd h0 hne, ?_⟩ <;> rw [State.raise_errFirst] <;> split
  · intro h0
    have := congrArg BitVec.toNat h0
    simp [hnum] at this
  · exact fun h0 => absurd (hfirst.2 h0) (by assumption)
  · omega
  · exact hle

theorem ErrInv.writeErr {s : State} (h : ErrInv s) (v : Word) : ErrInv (s.writeErr v) := by
  obtain ⟨hfirst, -, hle⟩ := h
  by_cases he : s.err &&& ~~~(v.extractLsb' 0 8) = 0#8
  · simp [ErrInv, State.writeErr, he]
  · have hs : s.err ≠ 0#8 := fun h0 => he (by simp [h0])
    have hf : s.errFirst ≠ 0#4 := fun h0 => hs (hfirst.2 h0)
    simp only [ErrInv, State.writeErr, he, if_false, false_iff, false_implies, true_and]
    exact ⟨hf, hle⟩

theorem ErrInv.of_sameErr {s t : State} (h : ErrInv s) (he : SameErr s t) : ErrInv t := by
  obtain ⟨h1, h2, h3, -⟩ := he
  simpa only [ErrInv, h1, h2, h3] using h

theorem ErrInv.exec {i : Instr} {s t : State} (h : ErrInv s) (he : exec i s = .next t) : ErrInv t := by
  rcases exec_err he with hs | ⟨c, arg, hs⟩
  · exact h.of_sameErr hs
  · exact (h.raise c arg).of_sameErr hs

/-- Settles O55: raising a cause and the writes to ERR are the only updates of the three registers. -/
theorem stepKeepsErrorCapture : Obligations.StepKeepsErrorCapture := fun _ _ hs ht =>
  KeptByTurns.step (I := ErrInv) (P := ErrInv)
    { same := id
      outsideBefore := fun _ h => h
      outsideAfter := fun _ h => h
      ran := fun h _ _ he => h.exec he
      badAccess := fun arg h => h.raise .badacc arg
      enables := fun _ _ h => h
      restarted := fun _ _ => ⟨Iff.intro (fun _ => rfl) (fun _ => rfl), fun _ => rfl, Nat.zero_le 8⟩
      issued := fun _ h _ => h
      errWritten := fun v h => h.writeErr v
      intPendWritten := fun _ h => h
      freqWritten := fun _ _ h => h } hs ht

/-! ### The control bits -/

/-- DMODE is DRAIN exactly while LIMIT_HIT is set (R42). -/
abbrev DrainInv (s : State) : Prop := s.dmode = .drain ↔ s.decFlags.limitHit = true

theorem DrainInv.emitLeaf {s : State} (h : DrainInv s) : DrainInv s.emitLeaf := by
  unfold DrainInv
  rw [State.emitLeaf_dmode, State.emitLeaf_limitHit]
  cases s.atLimit (s.decCount + 1#32)
  · simpa using h
  · simp

theorem ControlInv.of_idle {s : State} (hv : s.codeValid = true → s.treeValid = true) (ha : s.decActive = false)
    (hd : DrainInv s) : ControlInv s :=
  ⟨hv, fun h => absurd h (by simp [ha]), hd⟩

theorem ControlInv.complete {s : State} (hv : s.codeValid = true → s.treeValid = true) (hd : DrainInv s) :
    ControlInv s.complete := .of_idle hv rfl hd

/-- The parts of the state the invariant reads of a running DECODE stay, but for DRAIN and LIMIT_HIT. -/
theorem ControlInv.emitLeaf {s : State} (h : ControlInv s) : ControlInv s.emitLeaf := by
  obtain ⟨hv, ha, hd⟩ := h
  exact ⟨hv, ha, DrainInv.emitLeaf hd⟩

theorem ControlInv.fail {s : State} (h : ControlInv s) (c : Cause) (arg : Word) : ControlInv (s.fail c arg) := by
  obtain ⟨hv, -, hd⟩ := h
  exact .of_idle hv rfl hd

theorem ControlInv.beforeDescent {s u : State} (h : ControlInv s) (hu : BeforeDescent s u) : ControlInv u := by
  cases hu with
  | inner => exact h
  | emitted => exact h.emitLeaf

theorem ControlInv.bitDone {s t : State} {v : Bool} (h : ControlInv s) (ht : BitDone s v t) : ControlInv t := by
  cases ht with
  | drained => exact h
  | refused => exact h.fail _ _
  | single => exact ControlInv.emitLeaf (s := s.countBit) h
  | reached => exact h.emitLeaf
  | lost _ _ hu => exact (h.beforeDescent hu).fail _ _
  | descended _ _ hu =>
    have hc := h.beforeDescent hu
    exact hc

theorem ControlInv.decodeStart {s : State} {lim : Bool} (h : ControlInv s)
    (hp : s.pend = some (if lim then 0x15#32 else 0x5#32)) : ControlInv (s.decodeStart lim) := by
  rcases s.decodeStart_cases lim with ⟨hv, he⟩ | he <;> rw [he]
  · refine ⟨h.1, fun _ => ⟨hv, ?_⟩, by simp [DecFlags.zero]⟩
    cases lim
    · exact Or.inl ⟨hp, rfl⟩
    · exact Or.inr ⟨hp, rfl⟩
  · exact h.fail _ _

theorem ControlInv.exec {i : Instr} {s t : State} (h : ControlInv s) (hd : i = .decode → s.pend = some 0x5#32)
    (hl : i = .decodeLim → s.pend = some 0x15#32) (he : exec i s = .next t) : ControlInv t := by
  have ⟨hv, _, hdrain⟩ := h
  cases i with
  | nop => cases he; exact .complete hv hdrain
  | clear => cases he; exact .complete nofun hdrain
  | build =>
    cases he
    rcases s.buildTree_cases with ⟨c, arg, he⟩ | ⟨-, -, he⟩ <;> rw [he]
    · exact .of_idle nofun rfl hdrain
    · exact .complete nofun hdrain
  | derive =>
    cases he
    rcases s.deriveCodes_cases with ⟨ht, he⟩ | he <;> rw [he]
    · exact .complete (fun _ => ht) hdrain
    · exact h.fail _ _
  | serialize =>
    cases he
    rcases s.serializeTable_cases with he | he <;> rw [he]
    · exact .complete hv hdrain
    · exact h.fail _ _
  | decode => cases he; exact h.decodeStart (hd rfl)
  | decodeLim => cases he; exact h.decodeStart (hl rfl)
  | illegalOp6 w => cases he; exact h.fail _ _
  | illegalOp8 w => cases he; exact h.fail _ _
  | illegalReserved w => cases he; exact h.fail _ _
  | bit0 => cases he; exact h.bitDone (s.bitToken_done false)
  | bit1 => cases he; exact h.bitDone (s.bitToken_done true)
  | bad2 => cases he; exact h.fail _ _
  | bad3 => cases he; exact h.fail _ _
  | eos d =>
    cases he
    rcases s.flush_cases with he | he | he <;> rw [he]
    · exact .complete hv hdrain
    · exact .complete hv hdrain
    · exact .complete hv (DrainInv.emitLeaf hdrain)

/-- Settles O56: DEC_ACTIVE is set by DECODE alone, whose word is in PEND until it completes. -/
theorem stepKeepsControl : Obligations.StepKeepsControl := fun _ _ hs ht =>
  KeptByTurns.step (I := ControlInv) (P := ControlInv)
    { same := id
      outsideBefore := fun _ h => h
      outsideAfter := fun _ h => h
      ran := fun h hd hl he => h.exec hd hl he
      badAccess := fun _ h => h
      enables := fun _ _ h => h
      restarted := fun _ _ => ⟨nofun, nofun, Iff.intro nofun nofun⟩
      issued := fun {s} v h hp => by
        obtain ⟨hv, ha, hd⟩ := h
        refine ⟨hv, fun hact => ?_, hd⟩
        obtain ⟨-, hw | hw⟩ := ha hact <;> simp [hp] at hw
      errWritten := fun _ h => h
      intPendWritten := fun _ h => h
      freqWritten := fun _ _ h => h } hs ht

end Sys2Proof.Machine
end

section
/-! SUPPORT. O59: what DERIVE stores depends on NODE and the tree's registers alone, so CODE holds the codes of the tree until
CODE_VALID falls. -/

namespace Sys2Proof.Machine

/-! ### NODE is its bytes -/

section
variable {s t : State} (h : ∀ a, 0x2000 ≤ a → a < 0x3000 → t.mem.get a = s.mem.get a)
include h

theorem State.isLeaf_of_bytes (i : NodeIdx) : t.isLeaf i = s.isLeaf i := by
  simp only [State.isLeaf, State.nodeLink_of_bytes h]

theorem State.nodeSym_of_bytes (i : NodeIdx) : t.nodeSym i = s.nodeSym i := by
  simp only [State.nodeSym, State.nodeLink_of_bytes h]

theorem State.left_of_bytes (i : NodeIdx) : t.left i = s.left i := by
  simp only [State.left, State.nodeLink_of_bytes h]

theorem State.right_of_bytes (i : NodeIdx) : t.right i = s.right i := by
  simp only [State.right, State.nodeLink_of_bytes h]

theorem State.walk_of_bytes (fuel : Nat) (i : NodeIdx) (p : Code) : t.walk fuel i p = s.walk fuel i p := by
  induction fuel generalizing i p with
  | zero => rfl
  | succ fuel ih =>
    simp only [State.walk, State.isLeaf_of_bytes h, State.nodeSym_of_bytes h, State.left_of_bytes h,
      State.right_of_bytes h, ih]

theorem State.assignedCodes_of_bytes (h1 : t.single = s.single) (hr : t.root = s.root) :
    t.assignedCodes = s.assignedCodes := by
  simp only [State.assignedCodes, h1, hr, State.nodeSym_of_bytes h, State.walk_of_bytes h]

end

/-- A FREQ write changes no byte from 0x800 on (R37). -/
theorem State.get_setFreq {s : State} (h : s.mem.wf = true) (sym : Byte) (v : Word) {a : Nat} (ha : 0x800 ≤ a) :
    (s.setFreq sym v).mem.get a = s.mem.get a := by
  have := sym.isLt
  rw [State.setFreq_mem, Memory.get_setWord h, if_neg (by simp only [freqAddr]; omega)]

/-! ### The bytes DERIVE stores -/

theorem codeWords_length (c : Code) : (codeWords c).length = 9 := by simp [codeWords]

/-- A byte outside CODE, after one code is stored (R40). -/
theorem Memory.get_storeCode_other {m : Memory} (h : m.wf = true) (sym : Byte) (c : Code) {x : Nat}
    (hx : x < 0x4000 ∨ 0x8000 ≤ x) : (m.storeCode sym c).get x = m.get x := by
  have := sym.isLt
  refine Memory.get_setWords_other h _ _ ?_
  rw [codeWords_length, codeAddr]
  omega

theorem Memory.get_foldl_storeCode_other {m : Memory} (h : m.wf = true) (l : List (Byte × Code)) {x : Nat}
    (hx : x < 0x4000 ∨ 0x8000 ≤ x) : (l.foldl (fun m p => m.storeCode p.1 p.2) m).get x = m.get x := by
  induction l generalizing m with
  | nil => rfl
  | cons p l ih =>
    rw [List.foldl_cons, ih (Memory.wf_storeCode h p.1 p.2), Memory.get_storeCode_other h p.1 p.2 hx]

/-- Where two memories hold the same byte, they still do after the same words are stored in both. -/
theorem Memory.get_setWords_congr {m m' : Memory} (h : m.wf = true) (h' : m'.wf = true) {x : Nat}
    (hx : m.get x = m'.get x) (a : Nat) (vs : List Word) : (m.setWords a vs).get x = (m'.setWords a vs).get x := by
  induction vs generalizing m m' a with
  | nil => exact hx
  | cons v vs ih =>
    refine ih (Memory.wf_setWord h a v) (Memory.wf_setWord h' a v) ?_ (a + 4)
    rw [Memory.get_setWord h, Memory.get_setWord h', hx]

theorem Memory.get_foldl_storeCode_congr {m m' : Memory} (h : m.wf = true) (h' : m'.wf = true) {x : Nat}
    (hx : m.get x = m'.get x) (l : List (Byte × Code)) :
    (l.foldl (fun m p => m.storeCode p.1 p.2) m).get x = (l.foldl (fun m p => m.storeCode p.1 p.2) m').get x := by
  induction l generalizing m m' with
  | nil => exact hx
  | cons p l ih =>
    rw [List.foldl_cons, List.foldl_cons]
    exact ih (Memory.wf_storeCode h p.1 p.2) (Memory.wf_storeCode h' p.1 p.2) (Memory.get_setWords_congr h h' hx _ _)

/-- The memory with these codes stored and no other byte. -/
def codeImage (l : List (Byte × Code)) : Memory := l.foldl (fun m p => m.storeCode p.1 p.2) []

/-- DERIVE leaves the assigned codes in CODE and every byte outside CODE as it was (R124, R125). -/
theorem State.get_storeCodes {s : State} (h : s.mem.wf = true) (x : Nat) :
    s.storeCodes.mem.get x = if 0x4000 ≤ x ∧ x < 0x8000 then (codeImage s.assignedCodes).get x else s.mem.get x := by
  have hc := Memory.wf_clearCodes h
  have hx : s.mem.clearCodes.get x = if 0x4000 ≤ x ∧ x < 0x8000 then Memory.unlisted else s.mem.get x :=
    Memory.get_zeroRange _ _ _ _
  rw [State.storeCodes_mem]
  split
  · rw [if_pos (by assumption)] at hx
    exact Memory.get_foldl_storeCode_congr hc rfl hx _
  · rw [if_neg (by assumption)] at hx
    rw [Memory.get_foldl_storeCode_other hc _ (by omega), hx]

theorem State.get_storeCodes_of_lt {s : State} (h : s.mem.wf = true) {x : Nat} (hx : x < 0x4000) :
    s.storeCodes.mem.get x = s.mem.get x := by
  rw [State.get_storeCodes h, if_neg (by omega)]

/-! ### CODE and the tree -/

/-- The invariant, byte for byte. -/
theorem codeInv_iff {s : State} (h : s.mem.wf = true) : CodeInv s ↔
    (s.codeValid = true → ∀ x, 0x4000 ≤ x → x < 0x8000 → (codeImage s.assignedCodes).get x = s.mem.get x) := by
  refine imp_congr_right (fun _ => ⟨fun he x h1 h2 => ?_, fun hb => ?_⟩)
  · rw [← he, State.get_storeCodes h, if_pos ⟨h1, h2⟩]
  · refine Memory.ext_get (State.wf_storeCodes h) h (fun x => ?_)
    rw [State.get_storeCodes h]
    split
    · rename_i hx
      exact hb x hx.1 hx.2
    · rfl

/-- The invariant speaks of NODE, CODE, SINGLE and ROOT only. -/
theorem CodeInv.of_bytes {s t : State} (h : CodeInv s) (hs : s.mem.wf = true) (ht : t.mem.wf = true)
    (hb : ∀ a, 0x2000 ≤ a → t.mem.get a = s.mem.get a) (hv : t.codeValid = true → s.codeValid = true)
    (h1 : t.single = s.single) (hr : t.root = s.root) : CodeInv t := by
  rw [codeInv_iff hs] at h
  rw [codeInv_iff ht]
  intro hc x hx1 hx2
  rw [State.assignedCodes_of_bytes (fun a ha _ => hb a ha) h1 hr, hb x (by omega)]
  exact h (hv hc) x hx1 hx2

theorem CodeInv.of_mem {s t : State} (h : CodeInv s) (hm : t.mem = s.mem) (hv : t.codeValid = s.codeValid)
    (h1 : t.single = s.single) (hr : t.root = s.root) : CodeInv t := by
  intro hc
  have hcodes := State.assignedCodes_of_bytes (fun a _ _ => by rw [hm]) h1 hr
  rw [State.storeCodes_mem, hcodes, hm]
  exact h (hv ▸ hc)

/-- After DERIVE the codes are those of the tree: assigning them reads NODE, which DERIVE leaves alone. -/
theorem codeInv_derived {s : State} (h : s.mem.wf = true) : CodeInv s.derived := by
  have hwf : s.derived.mem.wf = true := State.wf_storeCodes h
  have hcodes : s.derived.assignedCodes = s.assignedCodes :=
    State.assignedCodes_of_bytes (fun a _ ha => State.get_storeCodes_of_lt h (by omega)) rfl rfl
  rw [codeInv_iff hwf, hcodes]
  intro _ x h1 h2
  have hx := State.get_storeCodes h x
  rw [if_pos ⟨h1, h2⟩] at hx
  exact hx.symm

theorem CodeInv.exec {i : Instr} {s t : State} (hwf : s.mem.wf = true) (h : CodeInv s) (he : exec i s = .next t) :
    CodeInv t := by
  by_cases hc : i = .clear
  · subst hc
    cases he
    exact nofun
  by_cases hb : i = .build
  · subst hb
    cases he
    rcases s.buildTree_cases with ⟨c, arg, he⟩ | ⟨-, -, he⟩ <;> rw [he] <;> exact nofun
  by_cases hd : i = .derive
  · subst hd
    cases he
    rcases s.deriveCodes_cases with ⟨-, he⟩ | he <;> rw [he]
    · exact codeInv_derived hwf
    · exact h.of_mem rfl rfl rfl rfl
  rw [exec_eq_withRun he hc hb hd]
  exact h.of_mem rfl rfl rfl rfl

/-- Settles O59: CODE_VALID is set by DERIVE alone, and whatever writes NODE clears it. -/
theorem stepKeepsCodes : Obligations.StepKeepsCodes := fun _ _ hwf hs ht =>
  KeptByTurns.step (I := fun s => s.mem.wf = true ∧ CodeInv s) (P := CodeInv)
    { same := fun h => h.2
      outsideBefore := fun _ h => ⟨h.1, h.2.of_mem rfl rfl rfl rfl⟩
      outsideAfter := fun _ h => h.of_mem rfl rfl rfl rfl
      ran := fun h _ _ he => CodeInv.exec h.1 h.2 he
      badAccess := fun _ h => h.2.of_mem rfl rfl rfl rfl
      enables := fun _ _ h => h.2.of_mem rfl rfl rfl rfl
      restarted := fun _ _ => nofun
      issued := fun _ h _ => h.2.of_mem rfl rfl rfl rfl
      errWritten := fun _ h => h.2.of_mem rfl rfl rfl rfl
      intPendWritten := fun _ h => h.2.of_mem rfl rfl rfl rfl
      freqWritten := fun sym v ⟨hwf, h⟩ =>
        h.of_bytes hwf (Memory.wf_setWord hwf _ _) (fun _ ha => State.get_setFreq hwf sym v (by omega)) id rfl rfl }
    ⟨hwf, hs⟩ ht

end Sys2Proof.Machine
end

section
/-! SUPPORT. The tree of `combine` (R112) as the list of pairs it merges: which keys are merged, how often, and with which
sums. -/

namespace Sys2Proof.Machine

/-! ### Merging keys -/

/-- From the keys `q` in Q, with new nodes from index `next`, the pairs `ps` are merged in order, and `root` is left. -/
inductive Merges : Nat → List Key → List (Key × Key) → Key → Prop where
  | done (next : Nat) (root : Key) : Merges next [root] [] root
  | round {next : Nat} {q rest : List Key} {a b root : Key} {ps : List (Key × Key)} (hq : q.Perm (a :: b :: rest))
      (hm : Merges (next + 1) ({ freq := a.freq + b.freq, idx := next } :: rest) ps root) :
      Merges next q ((a, b) :: ps) root

theorem takeLeast_perm (k : Key) (q : List Key) : ((takeLeast k q).1 :: (takeLeast k q).2).Perm (k :: q) := by
  induction q generalizing k with
  | nil => exact List.Perm.refl _
  | cons x q ih =>
    unfold takeLeast
    split
    · exact (List.Perm.swap _ _ _).trans ((ih x).cons k)
    · exact (List.Perm.swap _ _ _).trans (((ih k).cons x).trans (List.Perm.swap _ _ _))

/-- `combine` merges all keys of a nonempty Q, and its nodes are the parents of the pairs. -/
theorem combine_merges (fuel : Nat) : ∀ (next : Nat) (q : List Key), q ≠ [] → q.length ≤ fuel →
    ∃ ps root, Merges next q ps root ∧ combine fuel next q = ps.map (fun p => parentNode p.1 p.2) := by
  induction fuel with
  | zero => exact fun next q hq hl => absurd (List.eq_nil_of_length_eq_zero (by omega)) hq
  | succ fuel ih =>
    intro next q hq hl
    obtain ⟨k, q, rfl⟩ := List.exists_cons_of_ne_nil hq
    have hp := takeLeast_perm k q
    rcases hleast : takeLeast k q with ⟨a, q'⟩
    rw [hleast] at hp
    cases q' with
    | nil =>
      obtain ⟨rfl, rfl⟩ : k = a ∧ q = [] := by simpa using hp.symm
      exact ⟨[], k, .done next k, by simp only [combine, hleast, List.map_nil]⟩
    | cons k' q' =>
      have hp' := takeLeast_perm k' q'
      have hlen := hp.length_eq
      have hlen' := hp'.length_eq
      simp only [List.length_cons] at hl hlen hlen'
      obtain ⟨ps, root, hm, he⟩ := ih (next + 1)
        ({ freq := a.freq + (takeLeast k' q').1.freq, idx := next } :: (takeLeast k' q').2) (by simp)
        (by simp only [List.length_cons]; omega)
      exact ⟨_ :: ps, root, .round (hp.symm.trans (hp'.symm.cons a)) hm, by
        simp only [combine, hleast, he, List.map_cons]⟩

/-- The keys of the nodes a run of merges makes. -/
def madeKeys : Nat → List (Key × Key) → List Key
  | _, [] => []
  | next, p :: ps => { freq := p.1.freq + p.2.freq, idx := next } :: madeKeys (next + 1) ps

theorem madeKeys_length (next : Nat) (ps : List (Key × Key)) : (madeKeys next ps).length = ps.length := by
  induction ps generalizing next with
  | nil => rfl
  | cons p ps ih => simp [madeKeys, ih]

theorem madeKeys_getElem (next : Nat) (ps : List (Key × Key)) (k : Nat) (hk : k < (madeKeys next ps).length)
    (hk' : k < ps.length) :
    (madeKeys next ps)[k] = { freq := ps[k].1.freq + ps[k].2.freq, idx := next + k } := by
  induction ps generalizing next k with
  | nil => simp at hk'
  | cons p ps ih =>
    cases k with
    | zero => rfl
    | succ k =>
      simp only [madeKeys, List.getElem_cons_succ, ih (next + 1) k (by simpa [madeKeys] using hk) (by simpa using hk')]
      congr 1
      omega

/-- The keys merged, in the order of the merges. -/
def mergedKeys (ps : List (Key × Key)) : List Key := ps.flatMap (fun p => [p.1, p.2])

section
variable {next : Nat} {q : List Key} {ps : List (Key × Key)} {root : Key}

theorem Merges.length (h : Merges next q ps root) : ps.length + 1 = q.length := by
  induction h with
  | done => rfl
  | round hq hm ih =>
    rw [hq.length_eq]
    simpa using ih

/-- Every key but the root is merged exactly once. -/
theorem Merges.perm (h : Merges next q ps root) : (root :: mergedKeys ps).Perm (q ++ madeKeys next ps) := by
  induction h with
  | done next root => exact List.Perm.refl _
  | @round next q rest a b root ps hq hm ih =>
    have hmid : (root :: mergedKeys ((a, b) :: ps)).Perm (a :: b :: (root :: mergedKeys ps)) :=
      ((List.perm_middle (l₁ := [a, b])).symm : (root :: ([a, b] ++ mergedKeys ps)).Perm _)
    refine hmid.trans (((ih.cons b).cons a).trans ?_)
    refine List.Perm.trans ?_ ((hq.symm).append_right _)
    exact (((List.perm_middle (l₁ := rest)).symm).cons b).cons a

/-- The frequencies in Q and the merges: a round keeps their sum. -/
theorem Merges.root_freq (h : Merges next q ps root) : root.freq = (q.map Key.freq).sum := by
  induction h with
  | done => simp
  | round hq hm ih =>
    rw [ih, (hq.map Key.freq).sum_eq]
    simp [Nat.add_assoc]

theorem Merges.pair_freq_le (h : Merges next q ps root) :
    ∀ p ∈ ps, p.1.freq + p.2.freq ≤ (q.map Key.freq).sum := by
  induction h with
  | done => simp
  | @round next q rest a b root ps hq hm ih =>
    rw [(hq.map Key.freq).sum_eq]
    intro p hp
    simp only [List.map_cons, List.sum_cons] at ih ⊢
    rcases List.mem_cons.1 hp with rfl | hp
    · simp only
      omega
    · have := ih p hp
      omega

/-- The root is the last node made; or the one key there was. -/
theorem Merges.root_idx (h : Merges next q ps root) (h1 : ∀ k, q = [k] → k.idx + 1 = next) :
    root.idx + 1 = next + ps.length := by
  induction h with
  | done next root => exact h1 root rfl
  | round hq hm ih =>
    rw [ih (fun k hk => by obtain ⟨rfl, -⟩ := List.cons.inj hk; rfl), List.length_cons]
    omega

/-- A node's children were made before it. -/
theorem Merges.child_idx_lt (h : Merges next q ps root) (hq : ∀ k ∈ q, k.idx < next) (k : Nat) (hk : k < ps.length) :
    ps[k].1.idx < next + k ∧ ps[k].2.idx < next + k := by
  induction h generalizing k with
  | done => simp at hk
  | @round next q rest a b root ps hp hm ih =>
    cases k with
    | zero => exact ⟨hq a (hp.symm.subset (by simp)), hq b (hp.symm.subset (by simp))⟩
    | succ k =>
      have hrest : ∀ x ∈ ({ freq := a.freq + b.freq, idx := next } :: rest : List Key), x.idx < next + 1 := by
        intro x hx
        rcases List.mem_cons.1 hx with rfl | hx
        · exact Nat.lt_succ_self _
        · exact Nat.lt_succ_of_lt (hq x (hp.symm.subset (by simp [hx])))
      have := ih hrest k (by simpa using hk)
      simp only [List.getElem_cons_succ]
      omega

end

end Sys2Proof.Machine
end

section
/-! SUPPORT. NODE as BUILD writes it: the leaves, then the parents of the merges, with every node's key at its index. -/

namespace Sys2Proof.Machine

/-! ### The leaves -/

theorem presentSymbols_length_le (s : State) : s.presentSymbols.length ≤ 256 :=
  (List.length_filter_le _ _).trans (by simp [allSymbols])

theorem presentSymbols_ascending (s : State) : s.presentSymbols.Pairwise (fun x y => x.toNat < y.toNat) := by
  refine List.Pairwise.filter _ (List.pairwise_map.2 (List.Pairwise.imp_of_mem ?_ List.pairwise_lt_range))
  intro a b ha hb hab
  rw [List.mem_range] at ha hb
  simpa [Nat.mod_eq_of_lt ha, Nat.mod_eq_of_lt hb] using hab

theorem State.leaves_length (s : State) : s.leaves.length = s.presentSymbols.length := List.length_map _

theorem leafKeys_length (leaves : List Node) : (leafKeys leaves).length = leaves.length := by simp [leafKeys]

theorem leafKeys_getElem (leaves : List Node) (j : Nat) (hj : j < (leafKeys leaves).length) (hj' : j < leaves.length) :
    (leafKeys leaves)[j] = { freq := leaves[j].freq.toNat, idx := j } := by
  simp [leafKeys]

theorem State.sum_leafKeys (s : State) : ((leafKeys s.leaves).map Key.freq).sum = s.totalFreq := by
  have h : (leafKeys s.leaves).map Key.freq = s.leaves.map (fun nd => nd.freq.toNat) := by
    refine List.ext_getElem (by simp [leafKeys]) (fun j h1 h2 => ?_)
    simp [leafKeys]
  rw [h, State.leaves, List.map_map]
  rfl

/-! ### Reading what a run of nodes stores -/

theorem nodeIdx_toNat {i : Nat} (h : i < 512) : (BitVec.ofNat 9 i).toNat = i := Nat.mod_eq_of_lt h

theorem State.node_of_setNodes {m : Memory} {t : State} {nodes : List Node} (hm : m.wf = true)
    (ht : t.mem = m.setNodes 0 nodes) (hl : nodes.length ≤ 511) {i : Nat} (hi : i < nodes.length) :
    t.nodeFreq (BitVec.ofNat 9 i) = nodes[i].freq ∧ t.nodeLink (BitVec.ofNat 9 i) = nodes[i].link := by
  have h := Memory.getWord_setNodes hm 0 nodes i hi
  rw [Nat.zero_add] at h
  rwa [State.nodeFreq, State.nodeLink, nodeIdx_toNat (by omega), ht]

/-- NODE of `t` holds the leaves of the present symbols of `s`, then the parents of the merges `ps` (R111, R112). -/
structure HoldsTree (s t : State) (ps : List (Key × Key)) (root : Key) : Prop where
  merges : Merges s.presentSymbols.length (leafKeys s.leaves) ps root
  leaf : ∀ j (hj : j < s.presentSymbols.length), t.leafAt j = true ∧ t.leftAt j = 0x1FF ∧ t.rightAt j = 0x1FF ∧
    t.symAt j = s.presentSymbols[j] ∧ t.freqAt j = (s.freq s.presentSymbols[j]).toNat
  inner : ∀ k (hk : k < ps.length), t.leafAt (s.presentSymbols.length + k) = false ∧
    t.symAt (s.presentSymbols.length + k) = 0#8 ∧ t.leftAt (s.presentSymbols.length + k) = ps[k].1.idx ∧
    t.rightAt (s.presentSymbols.length + k) = ps[k].2.idx ∧
    t.freqAt (s.presentSymbols.length + k) = ps[k].1.freq + ps[k].2.freq
  reserved : ∀ i, i < s.presentSymbols.length + ps.length → linkReserved (t.nodeLink (BitVec.ofNat 9 i)) = 0#5

theorem leafKeys_idx_lt {leaves : List Node} {k : Key} (hk : k ∈ leafKeys leaves) : k.idx < leaves.length := by
  obtain ⟨j, hj, rfl⟩ := List.getElem_of_mem hk
  have hj' := hj
  rw [leafKeys_length] at hj'
  rwa [leafKeys_getElem leaves j hj hj']

/-- The nodes of BUILD: the leaves, then the parents of a run of merges over their keys. -/
theorem State.treeNodes_eq {s : State} (hp : s.presentSymbols ≠ []) :
    ∃ ps root, Merges s.presentSymbols.length (leafKeys s.leaves) ps root ∧
      treeNodes s.leaves = s.leaves ++ ps.map (fun p => parentNode p.1 p.2) := by
  have hne : leafKeys s.leaves ≠ [] := by simpa [leafKeys, State.leaves] using hp
  obtain ⟨ps, root, hm, he⟩ :=
    combine_merges s.leaves.length s.leaves.length (leafKeys s.leaves) hne (leafKeys_length _).le
  exact ⟨ps, root, s.leaves_length ▸ hm, by rw [treeNodes, he]⟩

/-- BUILD's nodes fit into NODE (R38). -/
theorem State.treeNodes_length_le {s : State} (hp : s.presentSymbols ≠ []) : (treeNodes s.leaves).length ≤ 511 := by
  obtain ⟨ps, root, hm, he⟩ := State.treeNodes_eq hp
  have hn := presentSymbols_length_le s
  have hps := hm.length
  rw [leafKeys_length, State.leaves_length] at hps
  rw [he, List.length_append, List.length_map, State.leaves_length]
  omega

theorem State.writeTree_holdsTree {s : State} (hwf : s.mem.wf = true) (hp : s.presentSymbols ≠ [])
    (htot : s.totalFreq < 2 ^ 32) : ∃ ps root, HoldsTree s s.writeTree ps root := by
  obtain ⟨ps, root, hm, hnodes⟩ := State.treeNodes_eq hp
  have hlen := s.leaves_length
  have hfit := State.treeNodes_length_le hp
  have htlen : (treeNodes s.leaves).length = s.presentSymbols.length + ps.length := by simp [hnodes, hlen]
  have read : ∀ {i : Nat} (hi : i < (treeNodes s.leaves).length), _ := fun {i} hi =>
    State.node_of_setNodes (t := s.writeTree) hwf rfl hfit hi
  refine ⟨ps, root, ⟨hm, fun j hj => ?_, fun k hk => ?_, fun i hi => ?_⟩⟩
  · obtain ⟨hf, hlk⟩ := read (i := j) (by omega)
    have hnd : (treeNodes s.leaves)[j]'(by omega) = s.leafNode s.presentSymbols[j] := by
      simp only [hnodes]
      rw [List.getElem_append_left (by omega)]
      simp [State.leaves]
    simp only [State.leafAt, State.leftAt, State.rightAt, State.symAt, State.freqAt, State.isLeaf, State.left,
      State.right, State.nodeSym, hf, hlk, hnd, linkLeaf_link, linkLeft_link, linkRight_link, linkSym_link]
    exact ⟨rfl, rfl, rfl, rfl, rfl⟩
  · obtain ⟨hf, hlk⟩ := read (i := s.presentSymbols.length + k) (by omega)
    have hnd : (treeNodes s.leaves)[s.presentSymbols.length + k]'(by omega) = parentNode ps[k].1 ps[k].2 := by
      simp [hnodes, ← hlen]
    have hidx := hm.child_idx_lt (fun key hkey => hlen ▸ leafKeys_idx_lt hkey) k hk
    have hfreq := hm.pair_freq_le ps[k] (List.getElem_mem hk)
    rw [s.sum_leafKeys] at hfreq
    simp only [State.leafAt, State.leftAt, State.rightAt, State.symAt, State.freqAt, State.isLeaf, State.left,
      State.right, State.nodeSym, hf, hlk, hnd, linkLeaf_link, linkLeft_link, linkRight_link, linkSym_link]
    exact ⟨rfl, rfl, nodeIdx_toNat (by omega), nodeIdx_toNat (by omega), Nat.mod_eq_of_lt (by omega)⟩
  · rw [(read (i := i) (by omega)).2, linkReserved_link]

/-! ### The keys of the tree -/

section
variable {s t : State} {ps : List (Key × Key)} {root : Key}

/-- The keys of all nodes, by index. -/
def treeKeys (s : State) (ps : List (Key × Key)) : List Key :=
  leafKeys s.leaves ++ madeKeys s.presentSymbols.length ps

theorem treeKeys_length (s : State) (ps : List (Key × Key)) :
    (treeKeys s ps).length = s.presentSymbols.length + ps.length := by
  simp [treeKeys, madeKeys_length, leafKeys_length, State.leaves_length]

theorem HoldsTree.treeKeys_getElem (H : HoldsTree s t ps root) {i : Nat} (hi : i < (treeKeys s ps).length) :
    (treeKeys s ps)[i] = { freq := t.freqAt i, idx := i } := by
  have hl := treeKeys_length s ps
  have hkl : (leafKeys s.leaves).length = s.presentSymbols.length := by rw [leafKeys_length, State.leaves_length]
  simp only [treeKeys]
  rcases Nat.lt_or_ge i s.presentSymbols.length with hlt | hge
  · obtain ⟨-, -, -, -, hf⟩ := H.leaf i hlt
    rw [List.getElem_append_left (by omega), leafKeys_getElem _ _ _ (by rw [State.leaves_length]; exact hlt), hf]
    simp [State.leaves, State.leafNode]
  · obtain ⟨k, rfl⟩ := Nat.exists_eq_add_of_le hge
    have hk : k < ps.length := by omega
    obtain ⟨-, -, -, -, hf⟩ := H.inner k hk
    rw [List.getElem_append_right (by omega), hf]
    simp only [hkl, Nat.add_sub_cancel_left]
    exact madeKeys_getElem _ ps k (by rwa [madeKeys_length]) hk

theorem HoldsTree.freqAt_of_mem (H : HoldsTree s t ps root) {k : Key} (hk : k ∈ treeKeys s ps) :
    t.freqAt k.idx = k.freq := by
  obtain ⟨i, hi, rfl⟩ := List.getElem_of_mem hk
  rw [H.treeKeys_getElem hi]

theorem HoldsTree.map_idx (H : HoldsTree s t ps root) :
    (treeKeys s ps).map Key.idx = List.range (s.presentSymbols.length + ps.length) := by
  refine List.ext_getElem (by simp [treeKeys_length]) (fun i h1 h2 => ?_)
  rw [List.getElem_map, H.treeKeys_getElem, List.getElem_range]

/-- The root and the merged keys have the indices of the tree, each once. -/
theorem HoldsTree.perm_range (H : HoldsTree s t ps root) :
    (root.idx :: (mergedKeys ps).map Key.idx).Perm (List.range (s.presentSymbols.length + ps.length)) := by
  rw [← H.map_idx]
  exact H.merges.perm.map Key.idx

theorem HoldsTree.children_nodup (H : HoldsTree s t ps root) : ((mergedKeys ps).map Key.idx).Nodup :=
  (List.nodup_cons.1 (H.perm_range.nodup_iff.2 List.nodup_range)).2

theorem map_idx_mergedKeys (ps : List (Key × Key)) :
    (mergedKeys ps).map Key.idx = ps.flatMap (fun p => [p.1.idx, p.2.idx]) := by
  simp [mergedKeys, List.map_flatMap]

theorem HoldsTree.root_idx (H : HoldsTree s t ps root) :
    root.idx + 1 = s.presentSymbols.length + ps.length := by
  refine H.merges.root_idx (fun k hk => ?_)
  have hl := congrArg List.length hk
  rw [leafKeys_length, State.leaves_length] at hl
  have hidx := leafKeys_idx_lt (hk ▸ List.mem_singleton_self k : k ∈ leafKeys s.leaves)
  rw [State.leaves_length] at hidx
  simp only [List.length_singleton] at hl
  omega

theorem HoldsTree.merged_mem (H : HoldsTree s t ps root) {k : Nat} (hk : k < ps.length) :
    ps[k].1 ∈ treeKeys s ps ∧ ps[k].2 ∈ treeKeys s ps := by
  have hmem : ∀ x ∈ [ps[k].1, ps[k].2], x ∈ treeKeys s ps := fun x hx =>
    H.merges.perm.subset (List.mem_cons_of_mem _ (List.mem_flatMap.2 ⟨ps[k], List.getElem_mem hk, hx⟩))
  exact ⟨hmem _ (by simp), hmem _ (by simp)⟩

theorem HoldsTree.root_freq (H : HoldsTree s t ps root) :
    t.freqAt root.idx = ((List.range s.presentSymbols.length).map t.freqAt).sum := by
  rw [H.freqAt_of_mem (H.merges.perm.subset List.mem_cons_self), H.merges.root_freq]
  congr 1
  refine List.ext_getElem (by simp [leafKeys_length, State.leaves_length]) (fun j h1 h2 => ?_)
  have hj : j < s.presentSymbols.length := by simpa using h2
  obtain ⟨-, -, -, -, hf⟩ := H.leaf j hj
  simp [leafKeys, State.leaves, State.leafNode, hf]

end

end Sys2Proof.Machine
end

section
/-! SUPPORT. O57: NODE and the result registers as BUILD writes them form a tree, and no other step changes a valid one. -/

namespace Sys2Proof.Machine

/-! ### The invariant from the tree BUILD wrote -/

section
variable {s t : State} {ps : List (Key × Key)} {root : Key}

theorem HoldsTree.length (H : HoldsTree s t ps root) : ps.length + 1 = s.presentSymbols.length := by
  rw [H.merges.length, leafKeys_length, State.leaves_length]

/-- A node below NNODE and not below NSYM is the parent of one of the merges. -/
theorem exists_merge_of_inner {n i : Nat} (hn : n ≤ i) (hi : i < n + ps.length) : ∃ k, k < ps.length ∧ i = n + k :=
  ⟨i - n, by omega, by omega⟩

theorem HoldsTree.inner_node (H : HoldsTree s t ps root) {i : Nat} (hn : s.presentSymbols.length ≤ i)
    (hi : i < s.presentSymbols.length + ps.length) :
    t.leafAt i = false ∧ t.leftAt i < i ∧ t.rightAt i < i ∧ t.leftAt i ≠ t.rightAt i ∧ t.symAt i = 0#8 ∧
      t.freqAt i = t.freqAt (t.leftAt i) + t.freqAt (t.rightAt i) := by
  obtain ⟨k, hk, rfl⟩ := exists_merge_of_inner hn hi
  obtain ⟨hleaf, hsym, hleft, hright, hfreq⟩ := H.inner k hk
  obtain ⟨hm1, hm2⟩ := H.merged_mem hk
  have hlt := H.merges.child_idx_lt (fun key hkey => State.leaves_length s ▸ leafKeys_idx_lt hkey) k hk
  have hne : ps[k].1.idx ≠ ps[k].2.idx := by
    have hnd := H.children_nodup
    rw [map_idx_mergedKeys, List.nodup_flatMap] at hnd
    simpa using hnd.1 ps[k] (List.getElem_mem hk)
  rw [hleft, hright, hfreq, H.freqAt_of_mem hm1, H.freqAt_of_mem hm2]
  exact ⟨hleaf, hlt.1, hlt.2, hne, hsym, rfl⟩

theorem HoldsTree.parentOf_iff (H : HoldsTree s t ps root) (hn : t.nsym.toNat = s.presentSymbols.length) {i j : Nat}
    (hi : i < s.presentSymbols.length + ps.length) :
    t.parentOf i j = true ↔ ∃ k, ∃ hk : k < ps.length, i = s.presentSymbols.length + k ∧ j ∈ [ps[k].1.idx, ps[k].2.idx] := by
  rw [State.parentOf, hn, Bool.and_eq_true, decide_eq_true_eq, Bool.or_eq_true, beq_iff_eq, beq_iff_eq]
  constructor
  · rintro ⟨hge, hch⟩
    obtain ⟨k, hk, rfl⟩ := exists_merge_of_inner hge hi
    obtain ⟨-, -, hleft, hright, -⟩ := H.inner k hk
    rw [hleft, hright] at hch
    exact ⟨k, hk, rfl, by simpa [eq_comm] using hch⟩
  · rintro ⟨k, hk, rfl, hj⟩
    obtain ⟨-, -, hleft, hright, -⟩ := H.inner k hk
    rw [hleft, hright]
    exact ⟨Nat.le_add_right _ _, by simpa [eq_comm] using hj⟩

/-- Every node below the root was merged, so it has a parent. -/
theorem HoldsTree.exists_parent (H : HoldsTree s t ps root) (hn : t.nsym.toNat = s.presentSymbols.length) {j : Nat}
    (hj : j < root.idx) : ∃ i, i < s.presentSymbols.length + ps.length ∧ t.parentOf i j = true := by
  have hroot := H.root_idx
  have hmem : j ∈ root.idx :: (mergedKeys ps).map Key.idx :=
    H.perm_range.mem_iff.2 (List.mem_range.2 (by omega))
  rw [map_idx_mergedKeys] at hmem
  obtain ⟨p, hp, hjp⟩ := List.mem_flatMap.1 ((List.mem_cons.1 hmem).resolve_left (by omega))
  obtain ⟨k, hk, rfl⟩ := List.getElem_of_mem hp
  exact ⟨s.presentSymbols.length + k, by omega, (H.parentOf_iff hn (by omega)).2 ⟨k, hk, rfl, hjp⟩⟩

/-- No key is merged twice, so no node has two parents. -/
theorem HoldsTree.parent_unique (H : HoldsTree s t ps root) (hn : t.nsym.toNat = s.presentSymbols.length) {i i' j : Nat}
    (hi : i < s.presentSymbols.length + ps.length) (hi' : i' < s.presentSymbols.length + ps.length)
    (h : t.parentOf i j = true) (h' : t.parentOf i' j = true) : i' = i := by
  obtain ⟨k, hk, rfl, hj⟩ := (H.parentOf_iff hn hi).1 h
  obtain ⟨k', hk', rfl, hj'⟩ := (H.parentOf_iff hn hi').1 h'
  have hnd := H.children_nodup
  rw [map_idx_mergedKeys, List.nodup_flatMap, List.pairwise_iff_getElem] at hnd
  obtain ⟨-, hdisj⟩ := hnd
  rcases Nat.lt_trichotomy k k' with hlt | rfl | hgt
  · exact absurd hj' (hdisj k k' hk hk' hlt hj)
  · rfl
  · exact absurd hj (hdisj k' k hk' hk hgt hj')

end

/-- What BUILD writes is a tree (R46). -/
theorem treeInv_writeTree {s : State} (hwf : s.mem.wf = true) (hp : s.presentSymbols ≠ []) (htot : s.totalFreq < 2 ^ 32) :
    TreeInv s.writeTree := by
  obtain ⟨ps, root, H⟩ := State.writeTree_holdsTree hwf hp htot
  have hle := presentSymbols_length_le s
  have hps := H.length
  have hidx := H.root_idx
  have hn : s.writeTree.nsym.toNat = s.presentSymbols.length := nodeIdx_toNat (by omega)
  have hnn : s.writeTree.nnode.toNat = s.presentSymbols.length + ps.length := by
    rw [State.writeTree_nnode, nodeIdx_toNat (by omega)]
    omega
  have hr : s.writeTree.root.toNat = root.idx := by
    rw [State.writeTree_root, nodeIdx_toNat (by omega)]
    omega
  have hrf : s.writeTree.rootFreq.toNat = s.writeTree.freqAt s.writeTree.root.toNat := by
    rw [State.freqAt, BitVec.ofNat_toNat, BitVec.setWidth_eq]
    rfl
  refine ⟨nofun, fun _ => rfl, fun _ => ⟨⟨⟨?_, ?_, ?_, ?_, ?_⟩, hrf, ?_⟩, ⟨fun j hj => ?_, fun j hj i hij => ?_⟩,
    fun i hi hni => ?_, fun i hi => ?_, fun j hj => ?_, fun j hj i hi i' hi' h h' => ?_⟩⟩
  · omega
  · omega
  · omega
  · omega
  · rw [hn, State.writeTree_single, beq_iff_eq]
  · rw [hrf, hr, hn, H.root_freq]
  · obtain ⟨hleaf, hleft, hright, -, hfreq⟩ := H.leaf j (hn ▸ hj)
    have hpos : s.freq s.presentSymbols[j] ≠ 0#32 := by
      simpa using (List.mem_filter.1 (List.getElem_mem (hn ▸ hj : j < s.presentSymbols.length))).2
    refine ⟨hleaf, hleft, hright, ?_⟩
    rw [hfreq]
    exact Nat.one_le_iff_ne_zero.2 (fun h0 => hpos (BitVec.eq_of_toNat_eq h0))
  · obtain ⟨-, -, -, hsj, -⟩ := H.leaf j (hn ▸ hj)
    obtain ⟨-, -, -, hsi, -⟩ := H.leaf i (by omega)
    rw [hsi, hsj]
    exact List.pairwise_iff_getElem.1 (presentSymbols_ascending s) i j (by omega) (by omega) hij
  · exact H.inner_node (by omega) (by omega)
  · exact H.reserved i (by omega)
  · rw [hnn]
    exact H.exists_parent hn (by omega)
  · exact H.parent_unique hn (by omega) (by omega) h h'

/-! ### The invariant after a step -/

/-- The invariant speaks of NODE and the tree's registers only; MAXLEN without codes is 0 (R32). -/
theorem TreeInv.of_bytes {s t : State} (h : TreeInv s) (hb : ∀ a, 0x2000 ≤ a → a < 0x3000 → t.mem.get a = s.mem.get a)
    (hv : t.treeValid = s.treeValid) (h1 : t.single = s.single) (hn : t.nsym = s.nsym) (hnn : t.nnode = s.nnode)
    (hr : t.root = s.root) (hf : t.rootFreq = s.rootFreq) (hm : t.codeValid = false → t.maxlen = 0#8) : TreeInv t := by
  obtain ⟨hno, -, htree⟩ := h
  refine ⟨by rwa [hv, h1, hn, hnn, hr, hf], hm, ?_⟩
  have hfreq : t.freqAt = s.freqAt := funext fun i => by simp only [State.freqAt, State.nodeFreq_of_bytes hb]
  have hleft : t.leftAt = s.leftAt := funext fun i => by simp only [State.leftAt, State.left_of_bytes hb]
  have hright : t.rightAt = s.rightAt := funext fun i => by simp only [State.rightAt, State.right_of_bytes hb]
  have hsym : t.symAt = s.symAt := funext fun i => by simp only [State.symAt, State.nodeSym_of_bytes hb]
  have hleaf : t.leafAt = s.leafAt := funext fun i => by simp only [State.leafAt, State.isLeaf_of_bytes hb]
  simpa only [TreeRegs, TreeLeaves, TreeInner, TreeReserved, TreeParents, State.parentOf, hv, h1, hn, hnn, hr, hf, hfreq,
    hleft, hright, hsym, hleaf, State.nodeLink_of_bytes hb] using htree

theorem treeInv_dropTree (s : State) : TreeInv s.dropTree := ⟨fun _ => ⟨rfl, rfl, rfl, rfl, rfl⟩, fun _ => rfl, nofun⟩

theorem treeInv_resetRegisters (s : State) : TreeInv s.resetRegisters :=
  ⟨fun _ => ⟨rfl, rfl, rfl, rfl, rfl⟩, fun _ => rfl, nofun⟩

theorem TreeInv.exec {i : Instr} {s t : State} (hwf : s.mem.wf = true) (h : TreeInv s) (he : exec i s = .next t) :
    TreeInv t := by
  by_cases hc : i = .clear
  · subst hc
    cases he
    exact treeInv_dropTree s.zeroFreq
  by_cases hb : i = .build
  · subst hb
    cases he
    rcases s.buildTree_cases with ⟨c, arg, he⟩ | ⟨hp, htot, he⟩ <;> rw [he]
    · exact treeInv_dropTree s
    · exact treeInv_writeTree hwf hp htot
  by_cases hd : i = .derive
  · subst hd
    cases he
    rcases s.deriveCodes_cases with ⟨-, he⟩ | he <;> rw [he]
    · exact h.of_bytes (fun a _ ha => State.get_storeCodes_of_lt hwf (by omega)) rfl rfl rfl rfl rfl rfl nofun
    · exact h
  rw [exec_eq_withRun he hc hb hd]
  exact h

/-- Settles O57: BUILD writes a tree, and the other writers of the registers drop it. -/
theorem stepKeepsTree : Obligations.StepKeepsTree := fun _ _ hwf hs ht =>
  KeptByTurns.step (I := fun s => s.mem.wf = true ∧ TreeInv s) (P := TreeInv)
    { same := fun h => h.2
      outsideBefore := fun _ h => h
      outsideAfter := fun _ h => h
      ran := fun h _ _ he => TreeInv.exec h.1 h.2 he
      badAccess := fun _ h => h.2
      enables := fun _ _ h => h.2
      restarted := fun _ _ => treeInv_resetRegisters _
      issued := fun _ h _ => h.2
      errWritten := fun _ h => h.2
      intPendWritten := fun _ h => h.2
      freqWritten := fun sym v ⟨hwf, h⟩ =>
        h.of_bytes (fun _ ha _ => State.get_setFreq hwf sym v (by omega)) rfl rfl rfl rfl rfl rfl h.2.1 }
    ⟨hwf, hs⟩ ht

end Sys2Proof.Machine
end

section
/-! SUPPORT. O58: an active DECODE stays in the tree and below its limit. -/

namespace Sys2Proof.Machine

/-! ### The pointer -/

section
variable {s : State}

theorem State.leafAt_toNat (s : State) (i : NodeIdx) : s.leafAt i.toNat = s.isLeaf i := by
  rw [State.leafAt, BitVec.ofNat_toNat, BitVec.setWidth_eq]

theorem State.child_toNat (s : State) (i : NodeIdx) (v : Bool) :
    (s.child i v).toNat = if v then s.rightAt i.toNat else s.leftAt i.toNat := by
  cases v <;> simp [State.child, State.rightAt, State.leftAt]

/-- The root of a valid tree is one of its nodes. -/
theorem TreeInv.root_lt (h : TreeInv s) (hv : s.treeValid = true) : s.root.toNat < s.nnode.toNat := by
  obtain ⟨⟨⟨hn, -, hnn, hr, -⟩, -⟩, -⟩ := h.2.2 hv
  omega

/-- A tree has a symbol, and every symbol is present. -/
theorem TreeInv.rootFreq_pos (h : TreeInv s) (hv : s.treeValid = true) : 0 < s.rootFreq.toNat := by
  obtain ⟨⟨⟨hn, -, -, -, -⟩, -, hsum⟩, ⟨hleaf, -⟩, -⟩ := h.2.2 hv
  obtain ⟨-, -, -, hpos⟩ := hleaf 0 (by omega)
  have hmem : s.freqAt 0 ∈ (List.range s.nsym.toNat).map s.freqAt :=
    List.mem_map_of_mem (List.mem_range.2 (by omega))
  have := List.le_sum_of_mem hmem
  omega

/-- A child of a node that is no leaf is a node (R46). -/
theorem TreeInv.child_lt (h : TreeInv s) (hv : s.treeValid = true) {i : NodeIdx} (hi : i.toNat < s.nnode.toNat)
    (hl : s.isLeaf i = false) (v : Bool) : (s.child i v).toNat < s.nnode.toNat := by
  obtain ⟨-, ⟨hleaf, -⟩, hinner, -⟩ := h.2.2 hv
  have hn : s.nsym.toNat ≤ i.toNat := by
    by_contra hlt
    have := (hleaf i.toNat (by omega)).1
    rw [s.leafAt_toNat, hl] at this
    cases this
  obtain ⟨-, hleft, hright, -⟩ := hinner i.toNat hi hn
  rw [s.child_toNat]
  split <;> omega

/-- The root of a tree of two or more symbols is no leaf. -/
theorem TreeInv.root_inner (h : TreeInv s) (hv : s.treeValid = true) (h1 : s.single = false) : s.isLeaf s.root = false := by
  obtain ⟨⟨⟨hn, -, hnn, hr, hsingle⟩, -⟩, -, hinner, -⟩ := h.2.2 hv
  have hne : s.nsym.toNat ≠ 1 := fun e => by simp [hsingle.2 e] at h1
  rw [← s.leafAt_toNat]
  exact (hinner s.root.toNat (by omega) (by omega)).1

end

/-! ### The limit -/

/-- Where an active DECODE stands. -/
abbrev Decoding (s : State) : Prop :=
  s.decPtr.toNat < s.nnode.toNat ∧ (s.single = true → s.decPtr = s.root) ∧
    (s.decFlags.lim = true → s.decCount.toNat ≤ s.rootFreq.toNat) ∧
    (s.decFlags.lim = true → s.dmode = .run → s.decCount.toNat < s.rootFreq.toNat) ∧
    (s.dmode = .drain → s.decFlags.lim = true ∧ s.decCount = s.rootFreq ∧ s.decPtr = s.root)

theorem State.atLimit_iff (s : State) (c : Word) : s.atLimit c = true ↔ s.decFlags.lim = true ∧ c = s.rootFreq := by
  simp [State.atLimit]

/-- A symbol emitted in RUN mode is counted up to the limit, and at the limit the mode is DRAIN (R140). -/
theorem Decoding.emitLeaf {s : State} (h : Decoding s) (hr : s.dmode = .run) (hroot : s.root.toNat < s.nnode.toNat) :
    Decoding s.emitLeaf := by
  obtain ⟨-, -, -, hlt, -⟩ := h
  have hcount : s.decFlags.lim = true → (s.decCount + 1#32).toNat = s.decCount.toNat + 1 := fun hl => by
    have h1 := hlt hl hr
    have h2 := s.rootFreq.isLt
    rw [BitVec.toNat_add]
    exact Nat.mod_eq_of_lt (by simp only [BitVec.toNat_ofNat]; omega)
  refine ⟨hroot, fun _ => rfl, fun hl => ?_, fun hl hrun => ?_, fun hd => ?_⟩
  · have h1 := hlt hl hr
    rw [State.emitLeaf_decCount, hcount hl]
    exact h1
  · have h1 := hlt hl hr
    have hne : s.decCount + 1#32 ≠ s.rootFreq := fun e => by
      rw [State.emitLeaf_dmode, if_pos ((s.atLimit_iff _).2 ⟨hl, e⟩)] at hrun
      cases hrun
    have hne' : (s.decCount + 1#32).toNat ≠ s.rootFreq.toNat := fun e => hne (BitVec.eq_of_toNat_eq e)
    rw [State.emitLeaf_decCount]
    show (s.decCount + 1#32).toNat < s.rootFreq.toNat
    rw [hcount hl] at hne' ⊢
    omega
  · by_cases hlim : s.atLimit (s.decCount + 1#32) = true
    · obtain ⟨hl, he⟩ := (s.atLimit_iff _).1 hlim
      exact ⟨hl, he, rfl⟩
    · rw [State.emitLeaf_dmode, if_neg hlim, hr] at hd
      cases hd

/-- In RUN mode of a multi-leaf tree only the pointer and the count are bounded: a descent keeps the count. -/
theorem Decoding.descended {s : State} (h : Decoding s) (hr : s.dmode = .run) (h1 : s.single = false) {p : NodeIdx}
    (hp : p.toNat < s.nnode.toNat) : Decoding { s.countBit with decPtr := p } := by
  obtain ⟨-, -, hle, hlt, -⟩ := h
  exact ⟨hp, fun hs => absurd hs (by simp [h1]), hle, hlt, fun hd => absurd hd (by simp [hr])⟩

theorem Decoding.bitDone {s t : State} {v : Bool} (htree : TreeInv s) (hv : s.treeValid = true) (h : Decoding s)
    (ht : BitDone s v t) : DecodeInv t := by
  have hroot := htree.root_lt hv
  cases ht with
  | drained => exact fun _ => h
  | refused => exact nofun
  | single hr => exact fun _ => Decoding.emitLeaf (s := s.countBit) h hr hroot
  | reached hr => exact fun _ => h.emitLeaf hr hroot
  | lost => exact nofun
  | descended hr h1 hu =>
    cases hu with
    | inner hl => exact fun _ => h.descended hr h1 (htree.child_lt hv h.1 hl v)
    | emitted hl hlim =>
      have hrun : s.emitLeaf.dmode = .run := by
        rw [State.emitLeaf_dmode, hlim]
        exact hr
      exact fun _ => (h.emitLeaf hr hroot).descended hrun h1 (htree.child_lt hv hroot (htree.root_inner hv h1) v)

/-- A bit starts no DECODE. -/
theorem BitDone.decActive {s t : State} {v : Bool} (h : BitDone s v t) (ht : t.decActive = true) :
    s.decActive = true := by
  cases h with
  | drained => exact ht
  | refused => cases ht
  | single => exact ht
  | reached => exact ht
  | lost => cases ht
  | descended _ _ hu => cases hu <;> exact ht

theorem DecodeInv.bitToken {s : State} (h : DecodeInv s) (htree : TreeInv s) (hc : ControlInv s) (v : Bool) :
    DecodeInv (s.bitToken v) := fun hact => by
  have hbit := s.bitToken_done v
  have hs := hbit.decActive hact
  obtain ⟨-, ha, -⟩ := hc
  exact Decoding.bitDone htree (ha hs).1 (h hs) hbit hact

theorem DecodeInv.decodeStart {s : State} (htree : TreeInv s) (lim : Bool) : DecodeInv (s.decodeStart lim) := by
  rcases s.decodeStart_cases lim with ⟨hv, he⟩ | he <;> rw [he]
  · have hpos := htree.rootFreq_pos hv
    exact fun _ => ⟨htree.root_lt hv, fun _ => rfl, fun _ => Nat.zero_le _, fun _ _ => hpos, nofun⟩
  · exact nofun

theorem DecodeInv.exec {i : Instr} {s t : State} (htree : TreeInv s) (hc : ControlInv s) (h : DecodeInv s)
    (he : exec i s = .next t) : DecodeInv t := by
  cases i with
  | nop => cases he; exact nofun
  | clear => cases he; exact nofun
  | build => cases he; rcases s.buildTree_cases with ⟨c, arg, he⟩ | ⟨-, -, he⟩ <;> rw [he] <;> exact nofun
  | derive => cases he; rcases s.deriveCodes_cases with ⟨-, he⟩ | he <;> rw [he] <;> exact nofun
  | serialize => cases he; rcases s.serializeTable_cases with he | he <;> rw [he] <;> exact nofun
  | decode => cases he; exact .decodeStart htree false
  | decodeLim => cases he; exact .decodeStart htree true
  | illegalOp6 w => cases he; exact nofun
  | illegalOp8 w => cases he; exact nofun
  | illegalReserved w => cases he; exact nofun
  | bit0 => cases he; exact DecodeInv.bitToken h htree hc false
  | bit1 => cases he; exact DecodeInv.bitToken h htree hc true
  | bad2 => cases he; exact nofun
  | bad3 => cases he; exact nofun
  | eos d => cases he; exact nofun

/-- Settles O58: the pointer only moves to the root or to a child, and the count only rises in RUN mode. -/
theorem stepKeepsDecoder : Obligations.StepKeepsDecoder := fun _ _ _ htree hc hs ht =>
  KeptByTurns.step (I := fun s => TreeInv s ∧ ControlInv s ∧ DecodeInv s) (P := DecodeInv)
    { same := fun h => h.2.2
      outsideBefore := fun _ h => h
      outsideAfter := fun _ h => h
      ran := fun ⟨htree, hc, h⟩ _ _ he => DecodeInv.exec htree hc h he
      badAccess := fun _ h => h.2.2
      enables := fun _ _ h => h.2.2
      restarted := fun _ _ => nofun
      issued := fun _ h _ => h.2.2
      errWritten := fun _ h => h.2.2
      intPendWritten := fun _ h => h.2.2
      freqWritten := fun _ _ h => h.2.2 } ⟨htree, hc, hs⟩ ht

end Sys2Proof.Machine
end

section
/-! SUPPORT. O40 and O41: which instruction writes which memory and which stream. -/

namespace Sys2Proof.Machine

/-! ### Memories -/

/-- A byte an instruction changes is CLEAR's in FREQ, BUILD's in NODE or DERIVE's in CODE (R37, R38, R40). -/
theorem exec_get {i : Instr} {s t : State} (hwf : s.mem.wf = true) (h : exec i s = .next t) (a : Nat) :
    t.mem.get a = s.mem.get a ∨ i = .clear ∧ 0x400 ≤ a ∧ a < 0x800 ∨ i = .build ∧ 0x2000 ≤ a ∧ a < 0x2FF8 ∨
      i = .derive ∧ 0x4000 ≤ a ∧ a < 0x8000 := by
  rcases exec_mem_cases h with he | ⟨hi, he⟩ | ⟨hi, hp, he⟩ | ⟨hi, he⟩ <;> rw [he]
  · exact Or.inl rfl
  · rw [Memory.get_zeroRange]
    split
    · rename_i ha
      exact Or.inr (Or.inl ⟨hi, ha⟩)
    · exact Or.inl rfl
  · by_cases ha : 0x2000 ≤ a ∧ a < 0x2FF8
    · exact Or.inr (Or.inr (Or.inl ⟨hi, ha⟩))
    · have hl := State.treeNodes_length_le hp
      exact Or.inl (Memory.get_setNodes_other hwf 0 _ (by simp only [nodeAddr]; omega))
  · rw [State.get_storeCodes hwf]
    split
    · rename_i ha
      exact Or.inr (Or.inr (Or.inr ⟨hi, ha⟩))
    · exact Or.inl rfl

/-- BIT_IN and the power-on values are no instruction's to change; CLEAR alone overwrites the latter. -/
theorem exec_bitIn_epoch {i : Instr} {s t : State} (h : exec i s = .next t) :
    t.bitIn = s.bitIn ∧ t.epoch = s.epoch ∧ (i ≠ .clear → t.freqUnwritten = s.freqUnwritten) := by
  by_cases hc : i = .clear
  · subst hc
    cases h
    exact ⟨rfl, rfl, fun hne => absurd rfl hne⟩
  by_cases hb : i = .build
  · subst hb
    cases h
    rcases s.buildTree_cases with ⟨c, arg, he⟩ | ⟨-, -, he⟩ <;> rw [he] <;> exact ⟨rfl, rfl, fun _ => rfl⟩
  by_cases hd : i = .derive
  · subst hd
    cases h
    rcases s.deriveCodes_cases with ⟨-, he⟩ | he <;> rw [he] <;> exact ⟨rfl, rfl, fun _ => rfl⟩
  rw [exec_eq_withRun h hc hb hd]
  exact ⟨rfl, rfl, fun _ => rfl⟩

/-- FREQ is its bytes, with the words not yet written (R37, R188). -/
theorem State.freq_of_bytes {s t : State} (h : ∀ a, a < 0x800 → t.mem.get a = s.mem.get a)
    (hu : t.freqUnwritten = s.freqUnwritten) (he : t.epoch = s.epoch) (sym : Byte) : t.freq sym = s.freq sym := by
  have hsym := sym.isLt
  have hw : t.mem.getWord (freqAddr sym) = s.mem.getWord (freqAddr sym) :=
    Memory.getWord_congr (fun k hk => h _ (by simp only [freqAddr]; omega))
  simp only [State.freq, hu, he, hw]

/-- Settles O40: the ranges CLEAR, BUILD and DERIVE write are FREQ, NODE and CODE. -/
theorem writersOfMemories : Obligations.WritersOfMemories := by
  intro i s hwf
  obtain ⟨t, ht⟩ := exec_next i s
  have hget := exec_get hwf ht
  obtain ⟨-, hepoch, hunwritten⟩ := exec_bitIn_epoch ht
  refine ⟨t, ht, fun hc => State.freq_of_bytes (fun a ha => ?_) (hunwritten hc) hepoch, fun hb a h1 h2 => ?_,
    fun hd a h1 h2 => ?_⟩
  · rcases hget a with h | ⟨hi, -⟩ | ⟨-, h, -⟩ | ⟨-, h, -⟩
    · exact h
    · exact absurd hi hc
    · omega
    · omega
  · rcases hget a with h | ⟨-, -, h⟩ | ⟨hi, -⟩ | ⟨-, h, -⟩
    · exact h
    · omega
    · exact absurd hi hb
    · omega
  · rcases hget a with h | ⟨-, -, h⟩ | ⟨-, -, h⟩ | ⟨hi, -⟩
    · exact h
    · omega
    · omega
    · exact absurd hi hd

/-! ### Streams -/

/-- At most one byte is appended to SYM_OUT, and none to TBL_OUT. -/
def EmitsAtMostOne (s t : State) : Prop := (t.symOut = s.symOut ∨ ∃ b, t.symOut = s.symOut ++ [b]) ∧ t.tblOut = s.tblOut

theorem EmitsAtMostOne.refl (s : State) : EmitsAtMostOne s s := ⟨Or.inl rfl, rfl⟩

theorem State.emitLeaf_emits (s : State) : EmitsAtMostOne s s.emitLeaf := ⟨Or.inr ⟨_, rfl⟩, rfl⟩

theorem BeforeDescent.emitsAtMostOne {s u : State} (h : BeforeDescent s u) : EmitsAtMostOne s u := by
  cases h with
  | inner => exact .refl s
  | emitted => exact s.emitLeaf_emits

theorem BitDone.emitsAtMostOne {s t : State} {v : Bool} (h : BitDone s v t) : EmitsAtMostOne s t := by
  cases h with
  | drained => exact .refl s
  | refused => exact .refl s
  | single => exact s.emitLeaf_emits
  | reached => exact s.emitLeaf_emits
  | lost _ _ hu => cases hu.emitsAtMostOne; constructor <;> assumption
  | descended _ _ hu => cases hu.emitsAtMostOne; constructor <;> assumption

theorem State.closeStream_flush_emits (s : State) : EmitsAtMostOne s s.flush.closeStream := by
  rcases s.flush_cases with he | he | he <;> rw [he]
  · exact .refl s
  · exact .refl s
  · exact s.emitLeaf_emits

/-- `t` has the output streams of `s` and what instruction `i` may append to them. -/
def EmitsOnlyAs (i : Instr) (s t : State) : Prop :=
  (t.symOut = s.symOut ∨ (i = .bit0 ∨ i = .bit1 ∨ ∃ d, i = .eos d) ∧ ∃ b, t.symOut = s.symOut ++ [b]) ∧
    (t.tblOut = s.tblOut ∨ i = .serialize ∧ ∃ bs, t.tblOut = s.tblOut ++ bs)

theorem EmitsOnlyAs.refl (i : Instr) (s : State) : EmitsOnlyAs i s s := ⟨Or.inl rfl, Or.inl rfl⟩

theorem EmitsAtMostOne.emitsOnlyAs {i : Instr} {s t : State} (h : EmitsAtMostOne s t)
    (hi : i = .bit0 ∨ i = .bit1 ∨ ∃ d, i = .eos d) : EmitsOnlyAs i s t := by
  obtain ⟨hsym, htbl⟩ := h
  exact ⟨hsym.imp_right (fun hb => ⟨hi, hb⟩), Or.inl htbl⟩

theorem exec_emits {i : Instr} {s t : State} (h : exec i s = .next t) : EmitsOnlyAs i s t := by
  cases i with
  | nop => cases h; exact .refl _ s
  | clear => cases h; exact .refl _ s
  | build => cases h; rcases s.buildTree_cases with ⟨c, arg, he⟩ | ⟨-, -, he⟩ <;> rw [he] <;> exact .refl _ s
  | derive => cases h; rcases s.deriveCodes_cases with ⟨-, he⟩ | he <;> rw [he] <;> exact .refl _ s
  | serialize =>
    cases h
    rcases s.serializeTable_cases with he | he <;> rw [he]
    · exact ⟨Or.inl rfl, Or.inr ⟨rfl, _, rfl⟩⟩
    · exact .refl _ s
  | decode => cases h; rcases s.decodeStart_cases false with ⟨-, he⟩ | he <;> rw [he] <;> exact .refl _ s
  | decodeLim => cases h; rcases s.decodeStart_cases true with ⟨-, he⟩ | he <;> rw [he] <;> exact .refl _ s
  | illegalOp6 w => cases h; exact .refl _ s
  | illegalOp8 w => cases h; exact .refl _ s
  | illegalReserved w => cases h; exact .refl _ s
  | bit0 => cases h; exact (s.bitToken_done false).emitsAtMostOne.emitsOnlyAs (Or.inl rfl)
  | bit1 => cases h; exact (s.bitToken_done true).emitsAtMostOne.emitsOnlyAs (Or.inr (Or.inl rfl))
  | bad2 => cases h; exact .refl _ s
  | bad3 => cases h; exact .refl _ s
  | eos d => cases h; exact s.closeStream_flush_emits.emitsOnlyAs (Or.inr (Or.inr ⟨d, rfl⟩))

/-- Settles O41: bits and EOS emit through `emit_leaf` at most once, SERIALIZE through `Emit(TBL_OUT, …)`. -/
theorem writersOfStreams : Obligations.WritersOfStreams := by
  intro i s
  obtain ⟨t, ht⟩ := exec_next i s
  exact ⟨t, ht, (exec_bitIn_epoch ht).1, exec_emits ht⟩

end Sys2Proof.Machine
end

section
/-! SUPPORT. O42 and O45: which location an access reaches, what a bad access leaves and what a read of a memory returns. -/

namespace Sys2Proof.Machine

/-! ### The map (R51) -/

theorem regAt_lt {k : Nat} {r : Reg} (h : regAt k = some r) : k < 18 := (List.getElem?_eq_some_iff.1 h).1

/-- The writable registers are CTRL, CMD, ERR and INT_PEND. -/
theorem regAt_of_writable {k : Nat} {r : Reg} (hr : regAt k = some r) (hw : (Loc.reg r).writable = true) :
    k = 2 ∨ k = 4 ∨ k = 5 ∨ k = 8 := by
  have hregs : ∀ k, k < 18 → (regAt k).any (fun r => (Loc.reg r).writable) = true → k = 2 ∨ k = 4 ∨ k = 5 ∨ k = 8 := by
    decide
  exact hregs k (regAt_lt hr) (by rw [hr]; exact hw)

/-- A mapped offset is in the range of its location. -/
theorem locAt_cases {a : Nat} {l : Loc} (h : locAt a = some l) :
    (∃ r, l = .reg r ∧ a < 0x400 ∧ regAt (a / 4) = some r) ∨
      (∃ sym, l = .freq sym ∧ 0x400 ≤ a ∧ a < 0x800) ∨
      (∃ i link, l = .node i link ∧ 0x2000 ≤ a ∧ a < 0x2FF8) ∨
      (∃ sym w, l = .code sym w ∧ 0x4000 ≤ a ∧ a < 0x8000) := by
  unfold locAt at h
  split_ifs at h with hreg hfreq hgap hnode hgap' hcode
  · obtain ⟨r, hr, rfl⟩ := Option.map_eq_some_iff.1 h
    exact Or.inl ⟨r, rfl, hreg, hr⟩
  · cases h
    exact Or.inr (Or.inl ⟨_, rfl, Nat.le_of_not_lt hreg, hfreq⟩)
  · cases h
    exact Or.inr (Or.inr (Or.inl ⟨_, _, rfl, Nat.le_of_not_lt hgap, hnode⟩))
  · cases h
    exact Or.inr (Or.inr (Or.inr ⟨_, _, rfl, Nat.le_of_not_lt hgap', hcode⟩))

/-- The unmapped part of the window. -/
theorem locAt_eq_none {a : Nat} (h : (0x48 ≤ a ∧ a < 0x400) ∨ (0x800 ≤ a ∧ a < 0x2000) ∨ (0x2FF8 ≤ a ∧ a < 0x4000)) :
    locAt a = none := by
  rw [Option.eq_none_iff_forall_ne_some]
  intro l hl
  rcases locAt_cases hl with ⟨r, -, ha, hr⟩ | ⟨sym, -, ha⟩ | ⟨i, link, -, ha⟩ | ⟨sym, w, -, ha⟩
  · have hk := regAt_lt hr
    omega
  all_goals omega

/-- The writable words are four registers and FREQ (R55). -/
theorem locAt_of_writable {a : Nat} {l : Loc} (h4 : a % 4 = 0) (hl : locAt a = some l) (hw : l.writable = true) :
    a = 0x008 ∨ a = 0x010 ∨ a = 0x014 ∨ a = 0x020 ∨ (0x400 ≤ a ∧ a < 0x800) := by
  rcases locAt_cases hl with ⟨r, rfl, -, hr⟩ | ⟨sym, -, ha⟩ | ⟨i, link, rfl, -⟩ | ⟨sym, w, rfl, -⟩
  · have hk := regAt_of_writable hr hw
    omega
  · exact Or.inr (Or.inr (Or.inr (Or.inr ha)))
  · cases hw
  · cases hw

theorem locAt_freq (sym : Byte) : locAt (0x400 + 4 * sym.toNat) = some (.freq sym) := by
  have hsym := sym.isLt
  have hs : (0x400 + 4 * sym.toNat - 0x400) / 4 = sym.toNat := by omega
  rw [locAt, if_neg (by omega), if_pos (by omega), hs, BitVec.ofNat_toNat, BitVec.setWidth_eq]

/-- The two words of a NODE entry are 4 bytes apart (R38). -/
theorem nodeWord_off (link : Bool) : (if link then 4 else 0) = 4 * link.toNat := by cases link <;> rfl

theorem locAt_node {i : Nat} (hi : i < 511) (link : Bool) :
    locAt (nodeAddr i + if link then 4 else 0) = some (.node i link) := by
  have hl := link.toNat_le
  have hidx : (0x2000 + 8 * i + 4 * link.toNat - 0x2000) / 8 = i := by omega
  have hbit : decide ((0x2000 + 8 * i + 4 * link.toNat) % 8 = 4) = link := by
    cases link
    · exact decide_eq_false (by rw [Bool.toNat_false]; omega)
    · exact decide_eq_true (by rw [Bool.toNat_true]; omega)
  rw [nodeWord_off, nodeAddr, locAt, if_neg (by omega), if_neg (by omega), if_neg (by omega), if_pos (by omega), hidx, hbit]

theorem locAt_code (sym : Byte) {w : Nat} (hw : w < 16) : locAt (codeAddr sym + 4 * w) = some (.code sym w) := by
  have hsym := sym.isLt
  have hs : (0x4000 + 64 * sym.toNat + 4 * w - 0x4000) / 64 = sym.toNat := by omega
  have hword : (0x4000 + 64 * sym.toNat + 4 * w - 0x4000) % 64 / 4 = w := by omega
  rw [codeAddr, locAt, if_neg (by omega), if_neg (by omega), if_neg (by omega), if_neg (by omega), if_neg (by omega),
    if_pos (by omega), hs, hword, BitVec.ofNat_toNat, BitVec.setWidth_eq]

/-! ### The checks of an access (R52 to R56) -/

/-- An access passes the checks when its size is 4, its offset is aligned and its location allows it. -/
theorem Access.target_eq (a : Access) : a.target =
    if a.size = 4 ∧ a.off.toNat % 4 = 0 then (locAt a.off.toNat).filter (fun l => !a.isWrite || l.writable) else none := by
  unfold Access.target
  by_cases hsize : a.size = 4
  · by_cases halign : a.off.toNat % 4 = 0
    · rw [if_neg (not_not.2 hsize), if_neg (not_not.2 halign), if_pos ⟨hsize, halign⟩]
      cases locAt a.off.toNat with
      | none => rfl
      | some l => cases a.isWrite <;> cases hw : l.writable <;> simp [Option.filter, hw]
    · rw [if_neg (not_not.2 hsize), if_pos halign, if_neg (fun h => halign h.2)]
  · rw [if_pos hsize, if_neg (fun h => hsize h.1)]

/-- A bad read: another size, misaligned or unmapped. -/
theorem Access.target_read_eq_none {off : Offset} {size : Nat}
    (h : size ≠ 4 ∨ off.toNat % 4 ≠ 0 ∨ locAt off.toNat = none) : (Access.read off size).target = none := by
  rw [Access.target_eq]
  split
  · rename_i hok
    rcases h with h | h | h
    · exact absurd hok.1 h
    · exact absurd hok.2 h
    · rw [Access.off, h]
      rfl
  · rfl

/-- A bad write: another size, misaligned or not at a writable location. -/
theorem Access.target_write_eq_none {off : Offset} {size : Nat} {v : Word}
    (h : size ≠ 4 ∨ off.toNat % 4 ≠ 0 ∨ ∀ l, locAt off.toNat = some l → l.writable ≠ true) :
    (Access.write off size v).target = none := by
  rw [Access.target_eq]
  split
  · rename_i hok
    rcases h with h | h | h
    · exact absurd hok.1 h
    · exact absurd hok.2 h
    · exact Option.filter_eq_none_iff.2 h
  · rfl

/-! ### Bad accesses -/

theorem State.stalls_of_bad {s : State} {a : Access} (h : a.target = none) : s.stalls a = false := by
  rw [State.stalls, h]

theorem State.access_read_of_bad {s : State} {off : Offset} {size : Nat} (h : (Access.read off size).target = none) :
    s.access (.read off size) = (s.badAccess (.read off size), some 0#32) := by
  rw [State.access, h]

theorem State.access_write_of_bad {s : State} {off : Offset} {size : Nat} {v : Word}
    (h : (Access.write off size v).target = none) :
    s.access (.write off size v) = (s.badAccess (.write off size v), none) := by
  rw [State.access, h]

/-- `raise` records its cause (R161, R163). -/
theorem State.raise_raised (s : State) (c : Cause) (arg : Word) : Raised c arg s (s.raise c arg) := by
  have hc := c.number_le
  refine ⟨fun h0 => ⟨?_, if_pos h0⟩, fun h0 => ⟨if_neg h0, if_neg h0⟩, fun k hk => ?_, rfl⟩
  · rw [State.raise_errFirst, if_pos h0, BitVec.toNat_ofNat]
    omega
  · rw [State.raise_err, BitVec.getLsbD_or, Cause.getLsbD_bit c k hk]

theorem State.badAccess_raised (s : State) (a : Access) :
    Raised .badacc (BitVec.ofNat 32 a.off.toNat) s (s.badAccess a) := by
  rw [BitVec.ofNat_toNat]
  exact s.raise_raised .badacc _

/-- Settles O42: the checks fail, and a bad access is `raise BADACC` alone. -/
theorem badAccesses : Obligations.BadAccesses := by
  intro s off size v a ha
  subst ha
  refine ⟨fun hbad => ?_, fun hbad => ?_⟩
  · have ht : (Access.read off size).target = none :=
      Access.target_read_eq_none (hbad.imp_right (Or.imp_right locAt_eq_none))
    exact ⟨State.stalls_of_bad ht, _, State.access_read_of_bad ht, s.badAccess_raised _, rfl⟩
  · have ht : (Access.write off size v).target = none := by
      refine Access.target_write_eq_none ?_
      by_cases h4 : off.toNat % 4 = 0
      · exact hbad.imp_right (Or.imp_right (fun hro l hl hw => hro (locAt_of_writable h4 hl hw)))
      · exact Or.inr (Or.inl h4)
    exact ⟨State.stalls_of_bad ht, _, State.access_write_of_bad ht, s.badAccess_raised _, rfl⟩

/-! ### Reads of a memory -/

theorem State.readLoc_of_some {s : State} {l : Loc} {v : Word} (h : s.locWord l = some v) : s.readLoc l = (s, v) := by
  rw [State.readLoc, h]

theorem State.readLoc_of_none {s : State} {l : Loc} (h : s.locWord l = none) : s.readLoc l = s.drawRead := by
  rw [State.readLoc, h]

/-- An aligned read of 4 bytes reads the location at its offset. -/
theorem State.access_read {s : State} {a : Nat} {l : Loc} (hl : locAt a = some l) (h4 : a % 4 = 0) :
    s.access (.read (BitVec.ofNat 15 a) 4) = ((s.readLoc l).1, some (s.readLoc l).2) := by
  have ha : a < 0x8000 := by
    rcases locAt_cases hl with ⟨r, -, ha, -⟩ | ⟨sym, -, ha⟩ | ⟨i, link, -, ha⟩ | ⟨sym, w, -, ha⟩ <;> omega
  have hoff : (BitVec.ofNat 15 a).toNat = a := Nat.mod_eq_of_lt ha
  have ht : (Access.read (BitVec.ofNat 15 a) 4).target = some l := by
    rw [Access.target_eq, if_pos ⟨rfl, by rw [Access.off, hoff, h4]⟩, Access.off, hoff, hl]
    rfl
  rw [State.access, ht]

theorem State.access_read_freq (s : State) (sym : Byte) :
    s.access (.read (BitVec.ofNat 15 (0x400 + 4 * sym.toNat)) 4) = (s, some (s.freq sym)) := by
  rw [State.access_read (locAt_freq sym) (by omega)]
  rfl

section
variable {s : State} {i : Nat} (hi : i < 511) (link : Bool)
include hi

theorem State.access_read_node :
    s.access (.read (BitVec.ofNat 15 (nodeAddr i + if link then 4 else 0)) 4) =
      ((s.readLoc (.node i link)).1, some (s.readLoc (.node i link)).2) :=
  State.access_read (locAt_node hi link) (by rw [nodeWord_off, nodeAddr]; omega)

/-- A word of a node of the current tree (R106). -/
theorem State.access_read_node_valid (h : s.treeValid = true ∧ i < s.nnode.toNat) :
    s.access (.read (BitVec.ofNat 15 (nodeAddr i + if link then 4 else 0)) 4) =
      (s, some (s.mem.getWord (nodeAddr i + if link then 4 else 0))) := by
  have hr : s.nodeReadable i = true := by rw [State.nodeReadable, h.1, decide_eq_true h.2]; rfl
  have hl : s.locWord (.node i link) = some (s.mem.getWord (nodeAddr i + if link then 4 else 0)) := if_pos hr
  rw [State.access_read_node hi, State.readLoc_of_some hl]

/-- A word of an entry that holds no node (R57, R39). -/
theorem State.access_read_node_invalid (h : s.treeValid = false ∨ s.nnode.toNat ≤ i) :
    s.access (.read (BitVec.ofNat 15 (nodeAddr i + if link then 4 else 0)) 4) = (s.drawRead.1, some s.drawRead.2) := by
  have hr : s.nodeReadable i = false := by
    rcases h with h | h
    · rw [State.nodeReadable, h, Bool.false_and]
    · rw [State.nodeReadable, decide_eq_false (Nat.not_lt_of_le h), Bool.and_false]
  have hl : s.locWord (.node i link) = none := if_neg (Bool.eq_false_iff.1 hr)
  rw [State.access_read_node hi, State.readLoc_of_none hl]

end

theorem State.access_read_code (s : State) (sym : Byte) {w : Nat} (hw : w < 16) :
    s.access (.read (BitVec.ofNat 15 (codeAddr sym + 4 * w)) 4) =
      ((s.readLoc (.code sym w)).1, some (s.readLoc (.code sym w)).2) :=
  State.access_read (locAt_code sym hw) (by rw [codeAddr]; omega)

/-- Settles O45: FREQ, NODE, then CODE, by what `locWord` says the location holds. -/
theorem memoryReads : Obligations.MemoryReads := by
  refine fun s => ⟨s.access_read_freq, fun i hi => ⟨fun hv => ?_, fun hv a ha => ?_⟩,
    fun sym w => ⟨fun h9 hv => ?_, fun h9 hv => ?_, fun h9 hw => ?_⟩⟩
  · have hidx := nodeIdx_toNat (show i < 512 by omega)
    rw [State.nodeFreq, State.nodeLink, hidx, show 0x2004 + 8 * i = nodeAddr i + 4 by rw [nodeAddr]; omega]
    exact ⟨State.access_read_node_valid hi false hv, State.access_read_node_valid hi true hv⟩
  · obtain ⟨link, rfl⟩ : ∃ link : Bool, a = nodeAddr i + if link then 4 else 0 := by
      rcases List.mem_pair.1 ha with rfl | rfl
      · exact ⟨false, rfl⟩
      · exact ⟨true, show 0x2004 + 8 * i = 0x2000 + 8 * i + 4 by omega⟩
    exact State.access_read_node_invalid hi link hv
  · have hl : s.locWord (.code sym w) = some (s.mem.getWord (codeAddr sym + 4 * w)) :=
      (if_neg (Nat.not_le_of_lt h9)).trans (if_pos hv)
    rw [← codeAddr, s.access_read_code sym (by omega), State.readLoc_of_some hl]
  · have hl : s.locWord (.code sym w) = none :=
      (if_neg (Nat.not_le_of_lt h9)).trans (if_neg (Bool.eq_false_iff.1 hv))
    rw [← codeAddr, s.access_read_code sym (by omega), State.readLoc_of_none hl]
    rfl
  · have hl : s.locWord (.code sym w) = some 0#32 := if_pos h9
    rw [← codeAddr, s.access_read_code sym hw, State.readLoc_of_some hl]

end Sys2Proof.Machine
end

section
/-! SUPPORT. O5: the turns of the agents outside the block. -/

namespace Sys2Proof.Machine

/-! ### The masters are no access's to change -/

theorem State.abortClear_masters (s : State) : s.abortClear.masters = s.masters := by
  unfold State.abortClear
  generalize allSymbols = l
  refine List.foldlRecOn (motive := fun t : State => t.masters = s.masters) l _ rfl (fun t ht sym _ => ?_)
  split
  · exact ht
  · exact ht

theorem State.writeCtrl_masters (s : State) (v : Word) : (s.writeCtrl v).masters = s.masters := by
  unfold State.writeCtrl State.softReset
  split
  · split
    · exact s.abortClear_masters
    · rfl
  · rfl

theorem State.access_masters (s : State) (a : Access) : (s.access a).1.masters = s.masters := by
  rcases State.access_cases (s := s) (a := a) with ⟨-, he⟩ | ⟨l, -, -, he | he⟩ | ⟨l, v, -, -, hl, he⟩ <;> rw [he]
  · rfl
  · rcases State.writeLoc_cases (s := s) hl v with ⟨-, he⟩ | ⟨-, he⟩ | ⟨-, he⟩ | ⟨-, he⟩ | ⟨sym, -, he⟩ <;> rw [he]
    · exact s.writeCtrl_masters v
    all_goals rfl

/-! ### Turns -/

theorem step_of_turns {s : State} {a : Agent} {rest : List Agent} (h : s.turns = a :: rest) :
    step s = agentTurn { s with turns := rest } a := by
  rw [step, h]

section
variable {s : State} {m : Nat} {h : Master} {a : Access} {todo : List Access}
  (hm : s.masters[m]? = some h) (ht : h.todo = a :: todo)
include hm ht

theorem State.nextAccess_eq : s.nextAccess m = some a := by
  rw [State.nextAccess, hm, Option.bind_some, ht, List.head?_cons]

/-- R192: a stalled access stays its master's next, and nothing happens. -/
theorem hostTurn_of_stalls (hs : s.stalls a = true) : hostTurn m s = s := by
  rw [hostTurn, State.nextAccess_eq hm ht]
  exact if_pos hs

theorem hostTurn_of_not_stalls (hs : s.stalls a = false) : hostTurn m s =
    { (s.access a).1 with masters := s.masters.set m { todo := todo, got := h.got ++ (s.access a).2.toList } } := by
  have hset : (s.access a).1.masters.modify m (fun h => h.done (s.access a).2) =
      s.masters.set m { todo := todo, got := h.got ++ (s.access a).2.toList } := by
    rw [s.access_masters, List.modify_eq_set_getElem?, hm]
    change s.masters.set m (h.done _) = _
    rw [Master.done, ht, List.tail_cons]
  rw [hostTurn, State.nextAccess_eq hm ht, ← hset]
  exact if_neg (Bool.eq_false_iff.1 hs)

end

theorem sourceTurn_cons {s : State} {x : Token} {xs : List Token} (h : s.source = x :: xs) :
    sourceTurn s = { s with bitIn := s.bitIn ++ [x], source := xs } := by rw [sourceTurn, h]

theorem sourceTurn_nil {s : State} (h : s.source = []) : sourceTurn s = s := by rw [sourceTurn, h]

theorem symSinkTurn_cons {s : State} {b : Byte} {bs : List Byte} (h : s.symOut = b :: bs) :
    symSinkTurn s = { s with symOut := bs } := by rw [symSinkTurn, h, List.tail_cons]

theorem symSinkTurn_nil {s : State} (h : s.symOut = []) : symSinkTurn s = s := by
  rw [symSinkTurn, h, List.tail_nil, ← h]

theorem tblSinkTurn_cons {s : State} {b : Byte} {bs : List Byte} (h : s.tblOut = b :: bs) :
    tblSinkTurn s = { s with tblOut := bs } := by rw [tblSinkTurn, h, List.tail_cons]

theorem tblSinkTurn_nil {s : State} (h : s.tblOut = []) : tblSinkTurn s = s := by
  rw [tblSinkTurn, h, List.tail_nil, ← h]

/-- Settles O5: the turn at the head of `turns` is taken over the state that has used it up. -/
theorem stepPerformsAccess : Obligations.StepPerformsAccess := by
  refine ⟨fun s rest m h a todo hturn hm ht => ?_, fun s rest hturn => ?_, fun s rest hturn => ?_, fun s rest hturn => ?_⟩ <;>
    rw [step_of_turns hturn]
  · exact ⟨fun hs => congrArg Host.Outcome.next (hostTurn_of_stalls hm ht hs),
      fun hs => congrArg Host.Outcome.next (hostTurn_of_not_stalls hm ht hs)⟩
  · exact ⟨fun _ _ h => congrArg Host.Outcome.next (sourceTurn_cons h),
      fun h => congrArg Host.Outcome.next (sourceTurn_nil h)⟩
  · exact ⟨fun _ _ h => congrArg Host.Outcome.next (symSinkTurn_cons h),
      fun h => congrArg Host.Outcome.next (symSinkTurn_nil h)⟩
  · exact ⟨fun _ _ h => congrArg Host.Outcome.next (tblSinkTurn_cons h),
      fun h => congrArg Host.Outcome.next (tblSinkTurn_nil h)⟩

end Sys2Proof.Machine
end

section
/-! SUPPORT. O1 to O3: the two decoders and the encoder agree (30_encoding.md R75 to R77, R80, R81). A command word is
one of the seven legal ones or belongs to exactly one ILLEGAL row, its OP field saying which. -/

namespace Sys2Proof.Machine

/-- The seven legal command words (R75). -/
def legalWords : List Word := [0x0#32, 0x1#32, 0x2#32, 0x3#32, 0x4#32, 0x5#32, 0x15#32]

/-- What the seven legal words have in common is seven facts. -/
theorem forall_mem_legalWords {P : Word → Prop} : (∀ w ∈ legalWords, P w) ↔
    P 0x0#32 ∧ P 0x1#32 ∧ P 0x2#32 ∧ P 0x3#32 ∧ P 0x4#32 ∧ P 0x5#32 ∧ P 0x15#32 := by
  simp [legalWords]

/-- A word with OP at most 4 and bits 31:4 zero is its OP, one of the first five legal words (R75). -/
theorem mem_legalWords_of_op_le {w : Word} (hop : (w.extractLsb' 0 4).toNat ≤ 4) (hup : w.extractLsb' 4 28 = 0#28) :
    w ∈ legalWords := by
  have hu := congrArg BitVec.toNat hup
  simp only [BitVec.extractLsb'_toNat, Nat.shiftRight_eq_div_pow, BitVec.toNat_ofNat] at hop hu
  have hlt : w.toNat < 5 := by omega
  have hw : w = BitVec.ofNat 32 w.toNat := by simp
  rw [hw]
  generalize w.toNat = n at hlt
  interval_cases n <;> decide

/-- The two conditions of `decode_cmd` (R76) name the seven legal words. -/
theorem mem_legalWords_iff (w : Word) : w ∈ legalWords ↔
    (w.extractLsb' 0 4 = 5#4 ∧ w.extractLsb' 5 27 = 0#27) ∨
      ((w.extractLsb' 0 4).toNat ≤ 4 ∧ w.extractLsb' 4 28 = 0#28) := by
  constructor
  · revert w
    exact forall_mem_legalWords.2 (by decide)
  · rintro (⟨hop, hup⟩ | ⟨hop, hup⟩)
    · rw [startWord_eq hop hup]
      split <;> decide
    · exact mem_legalWords_of_op_le hop hup

/-! ### The three ILLEGAL rows, by the OP field -/

theorem op_toNat (w : Word) : (w.extractLsb' 0 4).toNat = w.toNat % 16 := by simp

theorem isOp8Word_iff (w : Word) : isOp8Word w = true ↔ 8 ≤ w.toNat % 16 := by
  have hbit : w.getLsbD 3 = decide (w.toNat / 2 ^ 3 % 2 = 1) := Nat.testBit_eq_decide_div_mod_eq
  rw [isOp8Word, hbit, decide_eq_true_eq]
  omega

theorem isOp6Word_iff (w : Word) : isOp6Word w = true ↔ 6 ≤ w.toNat % 16 ∧ w.toNat % 16 < 8 := by
  rw [isOp6Word, beq_iff_eq, ← BitVec.toNat_inj, BitVec.extractLsb'_toNat, Nat.shiftRight_eq_div_pow, BitVec.toNat_ofNat]
  omega

/-- The third ILLEGAL row is what the other two and the legal words leave over (R77). -/
theorem isReservedWord_iff (w : Word) : isReservedWord w = true ↔ w.toNat % 16 ≤ 5 ∧ w ∉ legalWords := by
  have h5 : w.extractLsb' 0 4 = 5#4 ↔ w.toNat % 16 = 5 := by rw [← BitVec.toNat_inj, op_toNat]; rfl
  simp only [isReservedWord, mem_legalWords_iff, op_toNat, h5, Bool.or_eq_true, Bool.and_eq_true, decide_eq_true_eq,
    beq_iff_eq, bne_iff_ne, ne_eq]
  by_cases hle : w.toNat % 16 ≤ 4
  · simp [hle, show w.toNat % 16 ≤ 5 by omega, show w.toNat % 16 ≠ 5 by omega]
  · by_cases heq : w.toNat % 16 = 5
    · simp [heq]
    · simp [hle, heq, show ¬ w.toNat % 16 ≤ 5 by omega]

/-- `illegalRow` goes by OP alone (R77). -/
theorem illegalRow_eq (w : Word) : illegalRow w =
    if 8 ≤ w.toNat % 16 then .illegalOp8 w else if 6 ≤ w.toNat % 16 then .illegalOp6 w else .illegalReserved w := by
  unfold illegalRow
  refine ite_congr (propext (isOp8Word_iff w)) (fun _ => rfl) fun h8 => ite_congr (propext ?_) (fun _ => rfl) fun _ => rfl
  rw [isOp6Word_iff]
  omega

/-- A word that is not legal is of the row it is decoded into (R77). -/
theorem illegalRow_wellFormed {w : Word} (h : w ∉ legalWords) : (illegalRow w).wellFormed = true := by
  rw [illegalRow_eq]
  split
  · exact (isOp8Word_iff w).2 ‹_›
  · split
    · exact (isOp6Word_iff w).2 (by omega)
    · exact (isReservedWord_iff w).2 ⟨by omega, h⟩

theorem encode_illegalRow (w : Word) : encode (illegalRow w) = .cmd w := by
  unfold illegalRow
  split
  · rfl
  · split <;> rfl

/-! ### The command decoder on a word that is not legal -/

theorem decodeCmd_of_not_mem {w : Word} (h : w ∉ legalWords) : decodeCmd w = illegalRow w := by
  rw [mem_legalWords_iff, not_or] at h
  exact (if_neg h.1).trans (if_neg h.2)

theorem op_le_of_mem_legalWords : ∀ w ∈ legalWords, w.toNat % 16 ≤ 5 := forall_mem_legalWords.2 (by decide)

theorem decodeCmd_of_op_gt {w : Word} (h : 5 < w.toNat % 16) : decodeCmd w = illegalRow w :=
  decodeCmd_of_not_mem fun hm => absurd (op_le_of_mem_legalWords w hm) (by omega)

theorem decodeCmd_of_op8 {w : Word} (h : isOp8Word w = true) : decodeCmd w = .illegalOp8 w := by
  have hop := (isOp8Word_iff w).1 h
  rw [decodeCmd_of_op_gt (by omega), illegalRow_eq, if_pos hop]

theorem decodeCmd_of_op6 {w : Word} (h : isOp6Word w = true) : decodeCmd w = .illegalOp6 w := by
  obtain ⟨hge, hlt⟩ := (isOp6Word_iff w).1 h
  rw [decodeCmd_of_op_gt (by omega), illegalRow_eq, if_neg (by omega), if_pos hge]

theorem decodeCmd_of_reserved {w : Word} (h : isReservedWord w = true) : decodeCmd w = .illegalReserved w := by
  obtain ⟨hop, hw⟩ := (isReservedWord_iff w).1 h
  rw [decodeCmd_of_not_mem hw, illegalRow_eq, if_neg (by omega), if_neg (by omega)]

/-! ### The statements -/

/-- Settles O1: a constructor without a word is computed; an ILLEGAL one carries a word that is not legal and is of its row. -/
theorem decodeOfEncode : Obligations.DecodeOfEncode := by
  intro i hi
  cases i with
  | illegalOp6 w => exact decodeCmd_of_op6 hi
  | illegalOp8 w => exact decodeCmd_of_op8 hi
  | illegalReserved w => exact decodeCmd_of_reserved hi
  | eos d =>
    revert d
    decide
  | nop | clear | build | derive | serialize | decode | decodeLim | bit0 | bit1 | bad2 | bad3 => rfl

theorem wellFormed_and_encode_decodeCmd (w : Word) : (decodeCmd w).wellFormed = true ∧ encode (decodeCmd w) = .cmd w := by
  by_cases h : w ∈ legalWords
  · revert w
    exact forall_mem_legalWords.2 (by decide)
  · rw [decodeCmd_of_not_mem h]
    exact ⟨illegalRow_wellFormed h, encode_illegalRow w⟩

theorem wellFormed_and_encode_decodeTok : ∀ t : Token, (decodeTok t).wellFormed = true ∧ encode (decodeTok t) = .tok t := by
  decide

/-- Settles O2: a command word is one of the seven legal ones or kept whole by its ILLEGAL row; the tokens are computed. -/
theorem encodeOfDecode : Obligations.EncodeOfDecode
  | .cmd w => wellFormed_and_encode_decodeCmd w
  | .tok t => wellFormed_and_encode_decodeTok t

/-- Settles O3: nineteen closed equations of the two decoders. -/
theorem sampleWordsDecode : Obligations.SampleWordsDecode := by
  unfold Obligations.SampleWordsDecode
  decide

end Sys2Proof.Machine
end

section
/-! SUPPORT. O4, O7, O11 to O13: the engine's step runs what it fetched, and what NOP, CLEAR and an illegal word leave. -/

namespace Sys2Proof.Machine

/-! ### A state is the same as itself

The frame of an update that writes none of a group's fields: the updated state's fields are those of `s`. -/

theorem SameCtrl.refl (s : State) : SameCtrl s s := ⟨rfl, rfl, rfl⟩

theorem SameTree.refl (s : State) : SameTree s s := ⟨rfl, rfl, rfl, rfl, rfl, rfl, rfl, rfl⟩

theorem SameDecoder.refl (s : State) : SameDecoder s s := ⟨rfl, rfl, rfl, rfl, rfl⟩

theorem SameMemory.refl (s : State) : SameMemory s s := ⟨fun _ => rfl, rfl, rfl⟩

theorem SameStreams.refl (s : State) : SameStreams s s := ⟨rfl, rfl, rfl⟩

theorem SameOutside.refl (s : State) : SameOutside s s := ⟨rfl, rfl, rfl, rfl⟩

/-! ### Completion -/

theorem State.complete_completed (s : State) : Completed s.complete := ⟨rfl, rfl, rfl, rfl⟩

theorem State.fail_completed (s : State) (c : Cause) (arg : Word) : Completed (s.fail c arg) :=
  (s.raise c arg).complete_completed

/-- Completion keeps what `raise` recorded (R104, R161). -/
theorem State.fail_raised (s : State) (c : Cause) (arg : Word) : Raised c arg s (s.fail c arg) := s.raise_raised c arg

theorem State.buildTree_completed (s : State) : Completed s.buildTree := by
  rcases s.buildTree_cases with ⟨c, arg, he⟩ | ⟨-, -, he⟩ <;> rw [he]
  · exact s.dropTree.fail_completed c arg
  · exact s.writeTree.complete_completed

theorem State.deriveCodes_completed (s : State) : Completed s.deriveCodes := by
  rcases s.deriveCodes_cases with ⟨-, he⟩ | he <;> rw [he]
  · exact State.complete_completed _
  · exact s.fail_completed _ _

theorem State.serializeTable_completed (s : State) : Completed s.serializeTable := by
  rcases s.serializeTable_cases with he | he <;> rw [he]
  · exact State.complete_completed _
  · exact s.fail_completed _ _

/-- A DECODE without a tree ends at once (R139). -/
theorem State.decodeStart_completed {s : State} (h : s.treeValid = false) (lim : Bool) : Completed (s.decodeStart lim) := by
  have he : s.decodeStart lim = s.fail .noTree s.pendWord := if_neg (Bool.eq_false_iff.1 h)
  rw [he]
  exact s.fail_completed _ _

/-! ### Illegal words -/

theorem exec_illegalRow (w : Word) (s : State) : exec (illegalRow w) s = .next (s.fail .illegal w) := by
  unfold illegalRow
  split
  · rfl
  · split <;> rfl

/-- Settles O7: the seven legal words by the completion of each command, every other word by `fail`. -/
theorem commandsCompleteInOneStep : Obligations.CommandsCompleteInOneStep := by
  intro w s
  by_cases hw : w ∈ legalWords
  · revert w
    rw [forall_mem_legalWords]
    exact ⟨
      fun _ => ⟨_, rfl, s.complete_completed⟩,
      fun _ => ⟨_, rfl, s.zeroFreq.dropTree.complete_completed⟩,
      fun _ => ⟨_, rfl, s.buildTree_completed⟩,
      fun _ => ⟨_, rfl, s.deriveCodes_completed⟩,
      fun _ => ⟨_, rfl, s.serializeTable_completed⟩,
      fun htree => ⟨_, rfl, State.decodeStart_completed (htree (Or.inl rfl)) false⟩,
      fun htree => ⟨_, rfl, State.decodeStart_completed (htree (Or.inr rfl)) true⟩⟩
  · rw [decodeCmd_of_not_mem hw]
    exact fun _ => ⟨_, exec_illegalRow w s, s.fail_completed _ _⟩

/-- Settles O11: NOP is `Complete()`. -/
theorem nopOnlyCompletes : Obligations.NopOnlyCompletes := fun s =>
  ⟨_, rfl, s.complete_completed, .refl s, .refl s, .refl s, .refl s, .refl s, .refl s, .refl s⟩

/-- Settles O12: FREQ is the zeroed range, and NODE is not readable without TREE_VALID. -/
theorem clearEmptiesTable : Obligations.ClearEmptiesTable := by
  intro s
  have hfreq : ∀ sym, s.zeroFreq.dropTree.complete.freq sym = 0#32 := fun sym =>
    (State.freq_congr (s := s.zeroFreq) rfl rfl rfl sym).trans (s.freq_zeroFreq sym)
  have hbytes : ∀ a, a < 0x400 ∨ 0x800 ≤ a → s.zeroFreq.dropTree.complete.mem.get a = s.mem.get a := fun a ha =>
    (Memory.get_zeroRange s.mem 0x400 0x800 a).trans (if_neg (by omega))
  have htree : NoTree s.zeroFreq.dropTree.complete := ⟨rfl, rfl, rfl, rfl, rfl, rfl, rfl, rfl⟩
  exact ⟨_, rfl, hfreq, htree, State.complete_completed _, hbytes, fun _ => rfl, rfl, .refl s, .refl s, .refl s, .refl s,
    .refl s⟩

/-- Settles O13: each of the three rows, and every word that is not legal, runs as `fail` with the word itself. -/
theorem illegalRaisesItsWord : Obligations.IllegalRaisesItsWord := by
  intro w s i hi
  have he : exec i s = .next (s.fail .illegal w) := by
    rcases hi with hrow | ⟨rfl, hw⟩
    · simp only [List.mem_cons, List.not_mem_nil, or_false] at hrow
      rcases hrow with rfl | rfl | rfl <;> rfl
    · rw [decodeCmd_of_not_mem hw]
      exact exec_illegalRow w s
  exact ⟨_, he, s.fail_raised .illegal w, s.fail_completed .illegal w, .refl s, .refl s, .refl s, .refl s, .refl s, .refl s⟩

/-! ### The engine's turn -/

section
variable {s : State} {w : Word} (hp : s.pend = some w)
include hp

theorem State.fetched_of_command (ha : s.decActive = false) : s.fetched = some (.cmd w) := by
  rw [State.fetched, hp]
  exact if_neg (Bool.eq_false_iff.1 ha)

theorem State.fetched_of_decode (ha : s.decActive = true) : s.fetched = s.bitIn.head?.map .tok := by
  rw [State.fetched, hp]
  exact if_pos ha

/-- R94: a command without an active DECODE. -/
theorem engineTurn_of_command (ha : s.decActive = false) : engineTurn s = exec (decodeCmd w) s := by
  rw [engineTurn, State.fetched_of_command hp ha]
  rfl

/-- R141: the oldest token is taken, then run. -/
theorem engineTurn_of_token {t : Token} {ts : List Token} (ha : s.decActive = true) (hb : s.bitIn = t :: ts) :
    engineTurn s = exec (decodeTok t) { s with bitIn := ts } := by
  have hf : s.fetched = some (.tok t) := by rw [State.fetched_of_decode hp ha, hb]; rfl
  have htake : s.take (.tok t) = { s with bitIn := ts } := by rw [State.take, hb, List.tail_cons]
  rw [engineTurn, hf, ← htake]
  rfl

/-- R141: an active DECODE waits for a token. -/
theorem engineTurn_of_wait (ha : s.decActive = true) (hb : s.bitIn = []) : engineTurn s = .next s := by
  have hf : s.fetched = none := by rw [State.fetched_of_decode hp ha, hb]; rfl
  rw [engineTurn, hf]

end

/-- With no turn given, an engine that has fetched moves first (log 9). -/
theorem step_of_idle {s : State} (ht : s.turns = []) (hf : s.fetched.isSome = true) : step s = engineTurn s := by
  rw [step, ht]
  exact if_pos hf

/-- Settles O4: the engine's turn over the state that has used it up, by what it fetched. -/
theorem stepRunsDecoded : Obligations.StepRunsDecoded := by
  refine ⟨fun s rest w hturn hp ha => ?_, fun s rest w t ts hturn hp ha hb => ?_, fun s rest w hturn hp ha hb => ?_,
    fun s w hturn hp ha => ?_, fun s w t ts hturn hp ha hb => ?_⟩
  · rw [step_of_turns hturn]
    exact engineTurn_of_command hp ha
  · rw [step_of_turns hturn]
    exact engineTurn_of_token (s := { s with turns := rest }) hp ha hb
  · rw [step_of_turns hturn]
    exact engineTurn_of_wait hp ha hb
  · rw [step_of_idle hturn (by rw [State.fetched_of_command hp ha]; rfl)]
    exact engineTurn_of_command hp ha
  · rw [step_of_idle hturn (by rw [State.fetched_of_decode hp ha, hb]; rfl)]
    exact engineTurn_of_token hp ha hb

end Sys2Proof.Machine
end

section
/-! SUPPORT. O6, O44, O46 to O50: what the host reads from a register, and what a write to CTRL, CMD, ERR, INT_PEND or FREQ
leaves. -/

namespace Sys2Proof.Machine

/-! ### Writes that pass the checks -/

section
variable {off : Offset} {size : Nat} {v : Word} {l : Loc} (ht : (Access.write off size v).target = some l)
include ht

theorem State.access_write_of_target (s : State) : s.access (.write off size v) = (s.writeLoc l v, none) := by
  rw [State.access, ht]

/-- Of the writes only CMD's and FREQ's wait for the end of a command (R192). -/
theorem State.stalls_write_of_target (s : State) : s.stalls (.write off size v) = (s.busy && l.writeStalls) := by
  rw [State.stalls, ht]
  rfl

theorem State.stalls_write_eq_false (s : State) (hl : l.writeStalls = false) : s.stalls (.write off size v) = false := by
  rw [State.stalls_write_of_target ht, hl, Bool.and_false]

end

/-- The window ends at 0x8000 (R50). -/
theorem locAt_lt {a : Nat} {l : Loc} (h : locAt a = some l) : a < 0x8000 := by
  rcases locAt_cases h with ⟨r, -, ha, -⟩ | ⟨sym, -, ha⟩ | ⟨i, link, -, ha⟩ | ⟨sym, w, -, ha⟩ <;> omega

/-- An aligned write of 4 bytes reaches a writable location at its offset. -/
theorem Access.target_write {a : Nat} {l : Loc} (hl : locAt a = some l) (hw : l.writable = true) (h4 : a % 4 = 0)
    (v : Word) : (Access.write (BitVec.ofNat 15 a) 4 v).target = some l := by
  have hoff : (BitVec.ofNat 15 a).toNat = a := Nat.mod_eq_of_lt (locAt_lt hl)
  rw [Access.target_eq, Access.off, hoff, if_pos ⟨rfl, h4⟩, hl]
  exact Option.filter_some_pos hw

theorem Access.target_write_ctrl (v : Word) : (Access.write 0x008#15 4 v).target = some (.reg .ctrl) :=
  Access.target_write rfl rfl rfl v

theorem Access.target_write_cmd (v : Word) : (Access.write 0x010#15 4 v).target = some (.reg .cmd) :=
  Access.target_write rfl rfl rfl v

theorem Access.target_write_err (v : Word) : (Access.write 0x014#15 4 v).target = some (.reg .err) :=
  Access.target_write rfl rfl rfl v

theorem Access.target_write_intPend (v : Word) : (Access.write 0x020#15 4 v).target = some (.reg .intPend) :=
  Access.target_write rfl rfl rfl v

theorem Access.target_write_freq (sym : Byte) (v : Word) :
    (Access.write (BitVec.ofNat 15 (0x400 + 4 * sym.toNat)) 4 v).target = some (.freq sym) :=
  Access.target_write (locAt_freq sym) rfl (by omega) v

/-- Settles O6: `writeCmd`, at a location whose write waits for BUSY = 0. -/
theorem cmdWriteIssues : Obligations.CmdWriteIssues := fun s w =>
  ⟨(State.stalls_write_of_target (Access.target_write_cmd w) s).trans (Bool.and_true _), s.writeCmd w,
    State.access_write_of_target (Access.target_write_cmd w) s, rfl, rfl, rfl, rfl⟩

/-- Settles O46: `setFreq`, whose four bytes are below 0x800. -/
theorem freqWriteThenRead : Obligations.FreqWriteThenRead := by
  intro s sym v hwf
  have hbytes : ∀ a, 0x800 ≤ a → (s.setFreq sym v).mem.get a = s.mem.get a := fun a ha => by
    have hsym := sym.isLt
    rw [State.setFreq_mem, Memory.get_setWord hwf, if_neg (by rw [freqAddr]; omega)]
  exact ⟨s.setFreq sym v, State.access_write_of_target (Access.target_write_freq sym v) s,
    (State.freq_setFreq hwf sym v sym).trans (if_pos rfl), fun x hx => (State.freq_setFreq hwf sym v x).trans (if_neg hx),
    hbytes, rfl⟩

/-! ### W1C and the enables -/

/-- A bit of ERR stays when it is not written 1 (R100). -/
theorem State.getLsbD_writeErr (s : State) (v : Word) {k : Nat} (hk : k < 8) :
    (s.writeErr v).err.getLsbD k = (s.err.getLsbD k && !v.getLsbD k) := by
  simp [hk]

/-- Settles O47: `writeErr`, bit by bit and by whether ERR comes to 0. -/
theorem errWriteClears : Obligations.ErrWriteClears := fun s v =>
  ⟨State.stalls_write_eq_false (Access.target_write_err v) s rfl, s.writeErr v,
    State.access_write_of_target (Access.target_write_err v) s, fun _ hk => s.getLsbD_writeErr v hk,
    fun h0 => ⟨if_pos h0, if_pos h0⟩, fun h0 => ⟨if_neg h0, if_neg h0⟩, rfl⟩

/-- R44: IRQ is a pending and enabled interrupt. -/
theorem State.irq_iff (s : State) :
    s.irq = true ↔ (s.intDone = true ∧ s.ieDone = true) ∨ (s.intErr = true ∧ s.ieErr = true) := by
  simp only [State.irq, Bool.or_eq_true, Bool.and_eq_true]

/-- Settles O48: `writeIntPend`. -/
theorem intPendWriteClears : Obligations.IntPendWriteClears := fun s v =>
  ⟨State.stalls_write_eq_false (Access.target_write_intPend v) s rfl, s.writeIntPend v,
    State.access_write_of_target (Access.target_write_intPend v) s, rfl, rfl, rfl, State.irq_iff _⟩

/-- Settles O49: `writeCtrl` with bit 0 clear. -/
theorem ctrlWriteSetsEnables : Obligations.CtrlWriteSetsEnables := by
  intro s v h0
  have hw : s.writeCtrl v = { s with ieDone := v.getLsbD 1, ieErr := v.getLsbD 2 } := if_neg (Bool.eq_false_iff.1 h0)
  refine ⟨State.stalls_write_eq_false (Access.target_write_ctrl v) s rfl, s.writeCtrl v,
    State.access_write_of_target (Access.target_write_ctrl v) s, ?_⟩
  rw [hw]
  exact ⟨rfl, rfl, rfl, State.irq_iff _⟩

/-! ### Soft reset -/

theorem State.readReg_resetRegisters (s : State) (r : Reg) : s.resetRegisters.readReg r = State.reset.readReg r := by
  cases r <;> rfl

theorem State.freq_resetRegisters (s : State) (sym : Byte) : s.resetRegisters.freq sym = s.freq sym :=
  State.freq_congr rfl rfl rfl sym

/-- `r` is `s` but for registers and FREQ, and each FREQ word is the old one or 0: the state whose registers a soft reset
resets (R103, R189). -/
structure OnlyFreqZeroed (s r : State) : Prop where
  streams : SameStreams s r
  bytes : ∀ a, 0x800 ≤ a → r.mem.get a = s.mem.get a
  freq : ∀ sym, r.freq sym = s.freq sym ∨ r.freq sym = 0#32
  masters : r.masters = s.masters
  source : r.source = s.source
  turns : r.turns = s.turns

theorem OnlyFreqZeroed.refl (s : State) : OnlyFreqZeroed s s :=
  ⟨.refl s, fun _ _ => rfl, fun _ => Or.inl rfl, rfl, rfl, rfl⟩

theorem State.abortClear_onlyFreqZeroed {s : State} (h : s.mem.wf = true) : OnlyFreqZeroed s s.abortClear := by
  obtain ⟨m, u, he, -, hget, hfreq⟩ := State.abortClear_spec h
  refine ⟨?_, ?_, hfreq, ?_, ?_, ?_⟩ <;> rw [he]
  · exact .refl s
  · exact hget

/-- A soft reset is the reset of the registers, after the abort of a CLEAR where one is in progress (R103). -/
theorem State.softReset_cases {s : State} (h : s.mem.wf = true) :
    ∃ r, s.softReset = r.resetRegisters ∧ OnlyFreqZeroed s r ∧ (s.pend ≠ some 0x1#32 → r = s) := by
  unfold State.softReset
  split
  · exact ⟨_, rfl, State.abortClear_onlyFreqZeroed h, fun hne => absurd ‹_› hne⟩
  · exact ⟨s, rfl, .refl s, fun _ => rfl⟩

/-- Settles O50: the registers by `resetRegisters`, the rest by what an aborted CLEAR leaves alone. -/
theorem softReset : Obligations.SoftReset := by
  intro s v hwf h0
  obtain ⟨r, hr, hzero, hsame⟩ := State.softReset_cases hwf
  have hw : s.writeCtrl v = r.resetRegisters := (if_pos h0).trans hr
  have haccess : s.access (.write 0x008#15 4 v) = (r.resetRegisters, none) := by
    rw [State.access_write_of_target (Access.target_write_ctrl v), ← hw]
    rfl
  refine ⟨State.stalls_write_eq_false (Access.target_write_ctrl v) s rfl, r.resetRegisters, haccess,
    r.readReg_resetRegisters, rfl, rfl, rfl, hzero.streams, hzero.bytes, fun hp sym => ?_,
    fun sym => ?_, hzero.masters, hzero.source, hzero.turns⟩
  · rw [r.freq_resetRegisters, hsame hp]
  · rw [r.freq_resetRegisters]
    exact hzero.freq sym

/-! ### Reads of a register -/

/-- Bits side by side from bit 0 up are their binary number (R22, R35). -/
theorem bitAt_five : ∀ b4 b3 b2 b1 b0 : Bool, bitAt b4 4 ||| bitAt b3 3 ||| bitAt b2 2 ||| bitAt b1 1 ||| bitAt b0 0 =
    BitVec.ofNat 32 (16 * b4.toNat + 8 * b3.toNat + 4 * b2.toNat + 2 * b1.toNat + b0.toNat) := by
  decide

/-- CTRL's two enables (R21). -/
theorem State.ctrlWord_eq (s : State) : s.ctrlWord = BitVec.ofNat 32 (4 * s.ieErr.toNat + 2 * s.ieDone.toNat) := by
  unfold State.ctrlWord
  cases s.ieErr <;> cases s.ieDone <;> rfl

/-- INT_PEND's two bits (R27). -/
theorem State.intPendWord_eq (s : State) : s.intPendWord = BitVec.ofNat 32 (2 * s.intErr.toNat + s.intDone.toNat) := by
  unfold State.intPendWord
  cases s.intErr <;> cases s.intDone <;> rfl

/-- A register whose word is `v` reads as `v`, and the read changes nothing (R99). -/
theorem State.access_read_reg {s : State} {a : Nat} {r : Reg} {v : Word} (hl : locAt a = some (.reg r)) (h4 : a % 4 = 0)
    (hv : s.readReg r = v) : s.access (.read (BitVec.ofNat 15 a) 4) = (s, some v) := by
  rw [State.access_read hl h4, ← hv]
  rfl

/-- Settles O44: each offset's register, and its word as a number. -/
theorem registerReads : Obligations.RegisterReads := by
  intro s
  have field : ∀ {n : Nat} (x : BitVec n), x.zeroExtend 32 = BitVec.ofNat 32 x.toNat := fun x =>
    (BitVec.ofNat_toNat 32 x).symm
  have word : ∀ x : Word, x = BitVec.ofNat 32 x.toNat := fun x => (BitVec.ofNat_toNat 32 x).symm
  simp only [List.forall_mem_cons]
  exact ⟨State.access_read_reg (r := .id) rfl rfl rfl, State.access_read_reg (r := .config) rfl rfl rfl,
    State.access_read_reg (r := .ctrl) rfl rfl s.ctrlWord_eq,
    State.access_read_reg (r := .status) rfl rfl (bitAt_five _ _ _ _ _),
    State.access_read_reg (r := .cmd) rfl rfl (word _), State.access_read_reg (r := .err) rfl rfl (field _),
    State.access_read_reg (r := .errFirst) rfl rfl (field _), State.access_read_reg (r := .errArg) rfl rfl (word _),
    State.access_read_reg (r := .intPend) rfl rfl s.intPendWord_eq, State.access_read_reg (r := .nsym) rfl rfl (field _),
    State.access_read_reg (r := .nnode) rfl rfl (field _), State.access_read_reg (r := .root) rfl rfl (field _),
    State.access_read_reg (r := .rootFreq) rfl rfl (word _), State.access_read_reg (r := .maxlen) rfl rfl (field _),
    State.access_read_reg (r := .decCount) rfl rfl (word _), State.access_read_reg (r := .decBits) rfl rfl (word _),
    State.access_read_reg (r := .decFlags) rfl rfl (bitAt_five _ _ _ _ _),
    State.access_read_reg (r := .decPtr) rfl rfl (field _), fun _ h => absurd h List.not_mem_nil⟩

end Sys2Proof.Machine
end

section
/-! SUPPORT. O14 to O17 and O20: which of its three ends BUILD meets, by the exact sum of FREQ, and what each end leaves. -/

namespace Sys2Proof.Machine

/-! ### The present symbols and their total -/

theorem mem_allSymbols (sym : Byte) : sym ∈ allSymbols :=
  List.mem_map.2 ⟨sym.toNat, List.mem_range.2 sym.isLt, by simp⟩

/-- Symbols that are not present add nothing to the sum. -/
theorem State.totalFreq_eq_freqSum (s : State) : s.totalFreq = s.freqSum := by
  have hpresent : (fun sym => s.freq sym != 0#32) = (fun v : Nat => v != 0) ∘ fun sym => (s.freq sym).toNat := by
    funext sym
    rw [Bool.eq_iff_iff, Function.comp_apply, bne_iff_ne, bne_iff_ne, ne_eq, ne_eq, ← BitVec.toNat_inj]
    rfl
  rw [State.totalFreq, State.presentSymbols, hpresent, ← List.filter_map, List.sum_filter_bne_zero]
  rfl

theorem State.presentSymbols_eq_nil_iff (s : State) : s.presentSymbols = [] ↔ ∀ sym, s.freq sym = 0#32 := by
  simp [State.presentSymbols, mem_allSymbols]

/-! ### The three ends of BUILD -/

theorem exec_build_of_empty {s : State} (h : s.presentSymbols = []) :
    exec .build s = .next (s.dropTree.fail .empty s.pendWord) :=
  congrArg Host.Outcome.next (if_pos h)

/-- A total over 2^32 - 1 needs a present symbol, so EMPTY is not raised first. -/
theorem exec_build_of_overflow {s : State} (h : 0xFFFFFFFF < s.freqSum) :
    exec .build s = .next (s.dropTree.fail .overflow s.pendWord) := by
  rw [← s.totalFreq_eq_freqSum] at h
  have hp : s.presentSymbols ≠ [] := fun hp => by simp [State.totalFreq, hp] at h
  exact congrArg Host.Outcome.next ((if_neg hp).trans (if_pos h))

theorem exec_build_of_fits {s : State} (hp : s.presentSymbols ≠ []) (h : s.freqSum ≤ 0xFFFFFFFF) :
    exec .build s = .next s.writeTree.complete := by
  rw [← s.totalFreq_eq_freqSum] at h
  exact congrArg Host.Outcome.next ((if_neg hp).trans (if_neg (Nat.not_lt.2 h)))

/-- `fail_build` of R109 records its cause, drops the tree, completes, and leaves the rest as it was. -/
theorem State.dropTree_fail_frame (s : State) (c : Cause) (arg : Word) :
    Raised c arg s (s.dropTree.fail c arg) ∧ NoTree (s.dropTree.fail c arg) ∧ Completed (s.dropTree.fail c arg) ∧
      SameCtrl s (s.dropTree.fail c arg) ∧ SameDecoder s (s.dropTree.fail c arg) ∧
      SameMemory s (s.dropTree.fail c arg) ∧ SameStreams s (s.dropTree.fail c arg) ∧
      SameOutside s (s.dropTree.fail c arg) :=
  ⟨s.dropTree.fail_raised c arg, ⟨rfl, rfl, rfl, rfl, rfl, rfl, rfl, rfl⟩, s.dropTree.fail_completed c arg, .refl s,
    .refl s, .refl s, .refl s, .refl s⟩

/-- Settles O14: with no present symbol BUILD is `fail_build` with EMPTY. -/
theorem buildOfEmptyTable : Obligations.BuildOfEmptyTable := fun s h =>
  ⟨_, exec_build_of_empty (s.presentSymbols_eq_nil_iff.2 h), s.dropTree_fail_frame .empty s.pendWord⟩

/-- Settles O15: with a total over 2^32 - 1 BUILD is `fail_build` with OVERFLOW. -/
theorem buildOfTooLargeTotal : Obligations.BuildOfTooLargeTotal := fun s h =>
  ⟨_, exec_build_of_overflow h, s.dropTree_fail_frame .overflow s.pendWord⟩

/-! ### The tree a successful BUILD writes -/

/-- n leaves and n - 1 parents (R115). -/
theorem State.treeNodes_length {s : State} (hp : s.presentSymbols ≠ []) :
    (treeNodes s.leaves).length = 2 * s.presentSymbols.length - 1 := by
  obtain ⟨ps, root, hm, he⟩ := State.treeNodes_eq hp
  have hps := hm.length
  rw [leafKeys_length, State.leaves_length] at hps
  rw [he, List.length_append, List.length_map, State.leaves_length]
  omega

/-- Only NODE[0..2n-2] is written (R113). -/
theorem State.get_writeTree_other {s : State} (hwf : s.mem.wf = true) (hp : s.presentSymbols ≠ []) {a : Nat}
    (ha : a < 0x2000 ∨ 0x2000 + 8 * (2 * s.presentSymbols.length - 1) ≤ a) : s.writeTree.mem.get a = s.mem.get a := by
  refine Memory.get_setNodes_other hwf 0 (treeNodes s.leaves) ?_
  rw [State.treeNodes_length hp]
  simp only [nodeAddr]
  omega

/-- The root's frequency is the sum of FREQ: a merge keeps the sum in Q (R118). -/
theorem State.writeTree_rootFreq_toNat {s : State} (hwf : s.mem.wf = true) (hp : s.presentSymbols ≠ [])
    (htot : s.freqSum ≤ 0xFFFFFFFF) : s.writeTree.rootFreq.toNat = s.freqSum := by
  rw [← s.totalFreq_eq_freqSum] at htot ⊢
  obtain ⟨ps, root, H⟩ := State.writeTree_holdsTree hwf hp (by omega)
  have hroot : 2 * s.presentSymbols.length - 2 = root.idx := by
    have hps := H.length
    have hidx := H.root_idx
    omega
  calc s.writeTree.rootFreq.toNat
    _ = s.writeTree.freqAt (2 * s.presentSymbols.length - 2) := rfl
    _ = root.freq := by rw [hroot, H.freqAt_of_mem (H.merges.perm.subset List.mem_cons_self)]
    _ = s.totalFreq := by rw [H.merges.root_freq, s.sum_leafKeys]

theorem State.presentSymbols_ne_nil {s : State} {j : Nat} (hj : j < s.presentSymbols.length) : s.presentSymbols ≠ [] :=
  List.ne_nil_of_length_pos (Nat.zero_lt_of_lt hj)

/-- Settles O16: the registers by `writeTree`, ROOT_FREQ by the sum a merge keeps, the frame by what `setNodes` leaves. -/
theorem buildResults : Obligations.BuildResults := by
  rintro s n hwf rfl hn htot
  have hp := State.presentSymbols_ne_nil hn
  have hle := presentSymbols_length_le s
  exact ⟨_, exec_build_of_fits hp htot, nodeIdx_toNat (by omega), nodeIdx_toNat (by omega), nodeIdx_toNat (by omega), rfl,
    State.writeTree_rootFreq_toNat hwf hp htot, rfl, rfl, beq_iff_eq, rfl, s.writeTree.complete_completed,
    fun _ ha => State.get_writeTree_other hwf hp ha, rfl, rfl, .refl s, .refl s, .refl s, .refl s, .refl s⟩

/-- A LINK word of NODE is its fields (R38). -/
theorem State.nodeLink_toNat (t : State) (i : Nat) : (t.nodeLink (BitVec.ofNat 9 i)).toNat =
    2 ^ 31 * (t.leafAt i).toNat + 2 ^ 26 * (linkReserved (t.nodeLink (BitVec.ofNat 9 i))).toNat +
      2 ^ 18 * (t.symAt i).toNat + 2 ^ 9 * t.rightAt i + t.leftAt i :=
  link_toNat _

/-- Settles O17: the leaves as `HoldsTree` states them; the symbols rise because they are filtered from 0 to 255. -/
theorem buildPlacesLeaves : Obligations.BuildPlacesLeaves := by
  intro s j hj hwf htot
  have hp := State.presentSymbols_ne_nil hj
  obtain ⟨ps, root, H⟩ := State.writeTree_holdsTree hwf hp (by rw [s.totalFreq_eq_freqSum]; omega)
  obtain ⟨hleaf, hleft, hright, hsym, hfreq⟩ := H.leaf j hj
  have hlink := s.writeTree.nodeLink_toNat j
  rw [hleaf, hleft, hright, hsym, H.reserved j (by omega)] at hlink
  exact ⟨_, exec_build_of_fits hp htot, hleaf, hsym, hfreq, hleft, hright, hlink.trans (by simp),
    fun i hi => List.pairwise_iff_getElem.1 (presentSymbols_ascending s) i j (by omega) hj hi⟩

/-! ### BUILD reads FREQ alone -/

section
variable {s s' : State} (h : ∀ sym, s.freq sym = s'.freq sym)
include h

theorem State.presentSymbols_of_freq : s.presentSymbols = s'.presentSymbols := by simp only [State.presentSymbols, h]

theorem State.freqSum_of_freq : s.freqSum = s'.freqSum := by simp only [State.freqSum, h]

theorem State.leaves_of_freq : s.leaves = s'.leaves := by
  have hnode : s.leafNode = s'.leafNode := funext fun sym => by simp only [State.leafNode, h]
  rw [State.leaves, State.leaves, State.presentSymbols_of_freq h, hnode]

/-- The nodes written come from the leaves, and the leaves from FREQ (R114). -/
theorem State.nodes_of_freq (hwf : s.mem.wf = true) (hwf' : s'.mem.wf = true) (hp : s.presentSymbols ≠ []) {i : Nat}
    (hi : i < 2 * s.presentSymbols.length - 1) :
    s.writeTree.nodeFreq (BitVec.ofNat 9 i) = s'.writeTree.nodeFreq (BitVec.ofNat 9 i) ∧
      s.writeTree.nodeLink (BitVec.ofNat 9 i) = s'.writeTree.nodeLink (BitVec.ofNat 9 i) := by
  rw [← State.treeNodes_length hp] at hi
  have hfit := State.treeNodes_length_le hp
  have hmem' : s'.writeTree.mem = s'.mem.setNodes 0 (treeNodes s.leaves) := by
    rw [State.leaves_of_freq h, State.writeTree_mem]
  obtain ⟨hf, hl⟩ := State.node_of_setNodes (t := s.writeTree) hwf rfl hfit hi
  obtain ⟨hf', hl'⟩ := State.node_of_setNodes hwf' hmem' hfit hi
  exact ⟨hf.trans hf'.symm, hl.trans hl'.symm⟩

/-- The results are counts of the present symbols, and ROOT_FREQ is a word of NODE (R113). -/
theorem State.sameTree_of_freq (hwf : s.mem.wf = true) (hwf' : s'.mem.wf = true) (hp : s.presentSymbols ≠ []) :
    SameTree s.writeTree s'.writeTree := by
  have hpos := List.length_pos_iff.2 hp
  have hrf : s.writeTree.rootFreq = s'.writeTree.rootFreq := by
    refine (State.nodes_of_freq h hwf hwf' hp (i := 2 * s.presentSymbols.length - 2) (by omega)).1.trans ?_
    rw [State.presentSymbols_of_freq h]
    rfl
  refine ⟨rfl, rfl, ?_, ?_, ?_, ?_, hrf.symm, rfl⟩ <;> simp [State.presentSymbols_of_freq h]

end

/-- Settles O20: both tables meet the same end, and where a tree is written it comes from FREQ alone. -/
theorem equalTablesEqualTrees : Obligations.EqualTablesEqualTrees := by
  intro s s' hwf hwf' h
  have hsyms := State.presentSymbols_of_freq h
  have hsum := State.freqSum_of_freq h
  by_cases hp : s.presentSymbols = []
  · exact ⟨_, _, exec_build_of_empty hp, exec_build_of_empty (hsyms ▸ hp), .refl _, nofun⟩
  · rcases Nat.lt_or_ge 0xFFFFFFFF s.freqSum with hover | hfits
    · exact ⟨_, _, exec_build_of_overflow hover, exec_build_of_overflow (hsum ▸ hover), .refl _, nofun⟩
    · have hle := presentSymbols_length_le s
      refine ⟨_, _, exec_build_of_fits hp hfits, exec_build_of_fits (hsyms ▸ hp) (hsum ▸ hfits),
        State.sameTree_of_freq h hwf hwf' hp, fun i hi => State.nodes_of_freq h hwf hwf' hp ?_⟩
      exact hi.trans_eq (nodeIdx_toNat (by omega))

end Sys2Proof.Machine
end

section
/-! SUPPORT. O18 and O19: the list `combine` works on is Q of R112, so each parent takes the two nodes of least key left. -/

namespace Sys2Proof.Machine

/-! ### The two least keys of a list -/

theorem Key.lt_iff (a b : Key) : a.lt b = true ↔ a.freq < b.freq ∨ (a.freq = b.freq ∧ a.idx < b.idx) := by
  simp [Key.lt]

/-- No key of the list is below the one `takeLeast` takes. -/
theorem takeLeast_not_lt (k : Key) (q : List Key) : ∀ x ∈ k :: q, ¬ x.lt (takeLeast k q).1 = true := by
  induction q generalizing k with
  | nil => simp [takeLeast, Key.lt_iff]
  | cons y q ih =>
    simp only [List.forall_mem_cons, Key.lt_iff] at ih ⊢
    unfold takeLeast
    split <;> rename_i hyk <;> rw [Key.lt_iff] at hyk
    · obtain ⟨hy, hq⟩ := ih y
      exact ⟨by simp only; omega, hy, hq⟩
    · obtain ⟨hk, hq⟩ := ih k
      exact ⟨hk, by simp only; omega, hq⟩

/-- A round of `combine` takes two keys out of Q: nothing in Q is below the first, and nothing left is below the second. -/
theorem takeLeast_twice {c a c' : Key} {q q' : List Key} (h : takeLeast c q = (a, c' :: q')) :
    (c :: q).Perm (a :: (takeLeast c' q').1 :: (takeLeast c' q').2) ∧ (∀ x ∈ c :: q, ¬ x.lt a = true) ∧
      ∀ x ∈ (takeLeast c' q').2, ¬ x.lt (takeLeast c' q').1 = true := by
  have hperm := takeLeast_perm c q
  have hleast := takeLeast_not_lt c q
  have hperm' := takeLeast_perm c' q'
  rw [h] at hperm hleast
  exact ⟨hperm.symm.trans (hperm'.symm.cons a), hleast, fun x hx =>
    takeLeast_not_lt c' q' x (hperm'.subset (List.mem_cons_of_mem _ hx))⟩

/-! ### Q round by round -/

/-- NODE[j]'s key (R11). -/
def State.keyAt (t : State) (j : Nat) : Key := { freq := t.freqAt j, idx := j }

/-- The list holds the key of each node in Q when the k-th parent is made, once, and no other key (R112). -/
structure QueueHolds (t : State) (n k : Nat) (q : List Key) : Prop where
  nodup : q.Nodup
  mem : ∀ x, x ∈ q ↔ InQueue t n k x.idx ∧ x = t.keyAt x.idx

/-- NODE[i] is a parent of two nodes below it, with the sum of their frequencies. -/
structure SumsChildren (t : State) (i : Nat) : Prop where
  left_lt : t.leftAt i < i
  right_lt : t.rightAt i < i
  freq : t.freqAt i = t.freqAt (t.leftAt i) + t.freqAt (t.rightAt i)

/-- The children of the k-th parent are the two nodes of least key in Q (R112). -/
structure TakesLeast (t : State) (n k : Nat) : Prop where
  left : InQueue t n k (t.leftAt (n + k))
  right : InQueue t n k (t.rightAt (n + k))
  below : KeyBelow t (t.leftAt (n + k)) (t.rightAt (n + k))
  rest : ∀ j, InQueue t n k j → j ≠ t.leftAt (n + k) → j ≠ t.rightAt (n + k) → KeyBelow t (t.rightAt (n + k)) j

theorem KeyBelow.freqAt_le {t : State} {i j : Nat} (h : KeyBelow t i j) : t.freqAt i ≤ t.freqAt j := by
  rcases h with hlt | ⟨heq, -⟩
  · exact hlt.le
  · exact heq.le

section
variable {t : State} {n k : Nat} {q : List Key}

/-- Q in the next round: the two children are out, the new parent is in. -/
theorem inQueue_succ_iff (hsum : ∀ k', k' ≤ k → SumsChildren t (n + k')) (j : Nat) :
    InQueue t n (k + 1) j ↔ j = n + k ∨ (InQueue t n k j ∧ j ≠ t.leftAt (n + k) ∧ j ≠ t.rightAt (n + k)) := by
  constructor
  · rintro ⟨hlt, hnot⟩
    obtain ⟨hl, hr⟩ := hnot k (Nat.lt_succ_self k)
    rcases Nat.lt_or_ge j (n + k) with hj | hj
    · exact Or.inr ⟨⟨hj, fun k' hk' => hnot k' (Nat.lt_succ_of_lt hk')⟩, hl.symm, hr.symm⟩
    · exact Or.inl (by omega)
  · rintro (rfl | ⟨⟨hlt, hnot⟩, hl, hr⟩)
    · refine ⟨Nat.lt_succ_self _, fun k' hk' => ?_⟩
      have hlt := (hsum k' (by omega)).left_lt
      have hrt := (hsum k' (by omega)).right_lt
      omega
    · refine ⟨Nat.lt_succ_of_lt hlt, fun k' hk' => ?_⟩
      rcases Nat.lt_succ_iff_lt_or_eq.1 hk' with hk' | rfl
      · exact hnot k' hk'
      · exact ⟨hl.symm, hr.symm⟩

theorem QueueHolds.idx_inj (hq : QueueHolds t n k q) {x y : Key} (hx : x ∈ q) (hy : y ∈ q) (h : x.idx = y.idx) : x = y := by
  rw [((hq.mem x).1 hx).2, ((hq.mem y).1 hy).2, h]

theorem QueueHolds.freqAt (hq : QueueHolds t n k q) {x : Key} (hx : x ∈ q) : t.freqAt x.idx = x.freq :=
  (congrArg Key.freq ((hq.mem x).1 hx).2).symm

/-- Of two keys in Q with different nodes, one is below the other. -/
theorem QueueHolds.keyBelow (hq : QueueHolds t n k q) {x y : Key} (hx : x ∈ q) (hy : y ∈ q) (hne : x ≠ y)
    (h : ¬ y.lt x = true) : KeyBelow t x.idx y.idx := by
  have hidx : x.idx ≠ y.idx := fun e => hne (hq.idx_inj hx hy e)
  rw [Key.lt_iff] at h
  rw [KeyBelow, hq.freqAt hx, hq.freqAt hy]
  omega

section
variable {a b : Key} {rest : List Key} (hq : QueueHolds t n k q) (hperm : q.Perm (a :: b :: rest))
  (hl : t.leftAt (n + k) = a.idx) (hr : t.rightAt (n + k) = b.idx)
include hq hperm hl hr

/-- A round that takes the two least keys. -/
theorem QueueHolds.takesLeast (ha : ∀ x ∈ q, ¬ x.lt a = true) (hb : ∀ x ∈ rest, ¬ x.lt b = true) : TakesLeast t n k := by
  have hnd := hperm.nodup_iff.1 hq.nodup
  simp only [List.nodup_cons, List.mem_cons, not_or] at hnd
  obtain ⟨⟨hab, -⟩, -⟩ := hnd
  have haq : a ∈ q := hperm.mem_iff.2 (by simp)
  have hbq : b ∈ q := hperm.mem_iff.2 (by simp)
  refine ⟨?_, ?_, ?_, fun j hj hja hjb => ?_⟩
  · rw [hl]
    exact ((hq.mem a).1 haq).1
  · rw [hr]
    exact ((hq.mem b).1 hbq).1
  · rw [hl, hr]
    exact hq.keyBelow haq hbq hab (ha b hbq)
  · rw [hl] at hja
    rw [hr] at hjb ⊢
    have hjq : t.keyAt j ∈ q := (hq.mem _).2 ⟨hj, rfl⟩
    have hneb : b ≠ t.keyAt j := fun e => hjb (congrArg Key.idx e).symm
    have hnea : a ≠ t.keyAt j := fun e => hja (congrArg Key.idx e).symm
    have hrest : t.keyAt j ∈ rest := by simpa [hnea.symm, hneb.symm] using hperm.mem_iff.1 hjq
    exact hq.keyBelow (y := t.keyAt j) hbq hjq hneb (hb _ hrest)

/-- The list after a round holds the next Q. -/
theorem QueueHolds.next (hsum : ∀ k', k' ≤ k → SumsChildren t (n + k')) :
    QueueHolds t n (k + 1) ({ freq := a.freq + b.freq, idx := n + k } :: rest) := by
  have hnd := hperm.nodup_iff.1 hq.nodup
  simp only [List.nodup_cons, List.mem_cons, not_or] at hnd
  obtain ⟨⟨hab, har⟩, hbr, hrest⟩ := hnd
  have haq : a ∈ q := hperm.mem_iff.2 (by simp)
  have hbq : b ∈ q := hperm.mem_iff.2 (by simp)
  have hmem : ∀ x, x ∈ rest ↔ x ∈ q ∧ x ≠ a ∧ x ≠ b := fun x => by
    rw [hperm.mem_iff, List.mem_cons, List.mem_cons]
    refine ⟨fun hx => ⟨Or.inr (Or.inr hx), fun e => har (e ▸ hx), fun e => hbr (e ▸ hx)⟩, ?_⟩
    rintro ⟨hx, hxa, hxb⟩
    exact (hx.resolve_left hxa).resolve_left hxb
  have hkey : { freq := a.freq + b.freq, idx := n + k } = t.keyAt (n + k) := by
    rw [State.keyAt, (hsum k (le_refl k)).freq, hl, hr, hq.freqAt haq, hq.freqAt hbq]
  rw [hkey]
  refine ⟨List.nodup_cons.2 ⟨fun hnew => ?_, hrest⟩, fun x => ?_⟩
  · obtain ⟨⟨hlt, -⟩, -⟩ := (hq.mem _).1 ((hmem _).1 hnew).1
    exact Nat.lt_irrefl _ hlt
  · rw [List.mem_cons, hmem, inQueue_succ_iff hsum, hl, hr]
    constructor
    · rintro (rfl | ⟨hx, hxa, hxb⟩)
      · exact ⟨Or.inl rfl, rfl⟩
      · obtain ⟨hin, hkey⟩ := (hq.mem x).1 hx
        exact ⟨Or.inr ⟨hin, fun e => hxa (hq.idx_inj hx haq e), fun e => hxb (hq.idx_inj hx hbq e)⟩, hkey⟩
    · rintro ⟨hidx | ⟨hin, hxa, hxb⟩, hkey⟩
      · exact Or.inl (hidx ▸ hkey)
      · exact Or.inr ⟨(hq.mem x).2 ⟨hin, hkey⟩, fun e => hxa (congrArg Key.idx e), fun e => hxb (congrArg Key.idx e)⟩

end

/-! ### The rounds of `combine` -/

/-- LEFT and RIGHT of the nodes from index i on are those of a list of nodes. -/
def HoldsChildren (t : State) (i : Nat) (nodes : List Node) : Prop :=
  ∀ k (hk : k < nodes.length), t.leftAt (i + k) = nodes[k].left.toNat ∧ t.rightAt (i + k) = nodes[k].right.toNat

theorem HoldsChildren.tail {i : Nat} {nd : Node} {nodes : List Node} (h : HoldsChildren t i (nd :: nodes)) :
    HoldsChildren t (i + 1) nodes := fun k hk => by
  rw [Nat.add_assoc, Nat.add_comm 1 k]
  exact h (k + 1) (Nat.succ_lt_succ hk)

/-- Where NODE holds what `combine` makes of Q, each parent takes the two least keys of its round. -/
theorem QueueHolds.combine_takesLeast (hn : n ≤ 256) (hsum : ∀ k, k + 1 < n → SumsChildren t (n + k)) (fuel : Nat) :
    ∀ (k : Nat) (q : List Key), QueueHolds t n k q → HoldsChildren t (n + k) (combine fuel (n + k) q) →
      k + (combine fuel (n + k) q).length < n →
      ∀ i, i < (combine fuel (n + k) q).length → TakesLeast t n (k + i) := by
  induction fuel with
  | zero => exact fun k q _ _ _ i hi => absurd hi (Nat.not_lt_zero i)
  | succ fuel ih =>
    intro k q hq hheld hlen i hi
    cases q with
    | nil => exact absurd hi (Nat.not_lt_zero i)
    | cons c q =>
      rcases htake : takeLeast c q with ⟨a, _ | ⟨c', q'⟩⟩
      · simp only [combine, htake, List.length_nil, Nat.not_lt_zero] at hi
      · obtain ⟨hperm, ha, hb⟩ := takeLeast_twice htake
        simp only [combine, htake, List.length_cons, Nat.add_assoc n k 1] at hheld hlen hi
        obtain ⟨⟨halt, -⟩, -⟩ := (hq.mem a).1 (hperm.mem_iff.2 (by simp))
        obtain ⟨⟨hblt, -⟩, -⟩ := (hq.mem (takeLeast c' q').1).1 (hperm.mem_iff.2 (by simp))
        obtain ⟨hl, hr⟩ := hheld 0 (Nat.succ_pos _)
        have hl : t.leftAt (n + k) = a.idx := hl.trans (nodeIdx_toNat (by omega))
        have hr : t.rightAt (n + k) = (takeLeast c' q').1.idx := hr.trans (nodeIdx_toNat (by omega))
        cases i with
        | zero => exact hq.takesLeast hperm hl hr ha hb
        | succ i =>
          have hnext := hq.next hperm hl hr (fun k' hk' => hsum k' (by omega))
          rw [Nat.add_comm i 1, ← Nat.add_assoc]
          exact ih (k + 1) _ hnext hheld.tail (by omega) i (by omega)

/-- What is in Q after a round is at least as frequent as the second key the round took. -/
theorem TakesLeast.right_freq_le (h : TakesLeast t n k) (hsum : ∀ k', k' ≤ k → SumsChildren t (n + k'))
    (j : Nat) (hj : InQueue t n (k + 1) j) : t.freqAt (t.rightAt (n + k)) ≤ t.freqAt j := by
  rcases (inQueue_succ_iff hsum j).1 hj with rfl | ⟨hin, hl, hr⟩
  · rw [(hsum k (le_refl k)).freq]
    exact Nat.le_add_left _ _
  · exact (h.rest j hin hl hr).freqAt_le

end

/-! ### The tree of BUILD -/

section
variable {s : State} {n : Nat} (hwf : s.mem.wf = true) (hn : s.presentSymbols.length = n) (htot : s.freqSum ≤ 0xFFFFFFFF)
include hwf hn htot

/-- Each parent BUILD writes, as the model's tree and as its LINK word (R38, R112). -/
theorem State.writeTree_parent {k : Nat} (hk : k + 1 < n) : s.writeTree.leafAt (n + k) = false ∧
    s.writeTree.symAt (n + k) = 0#8 ∧ SumsChildren s.writeTree (n + k) ∧
    (s.writeTree.nodeLink (BitVec.ofNat 9 (n + k))).toNat =
      2 ^ 9 * s.writeTree.rightAt (n + k) + s.writeTree.leftAt (n + k) := by
  subst hn
  obtain ⟨ps, root, H⟩ := State.writeTree_holdsTree hwf (State.presentSymbols_ne_nil hk)
    (by rw [s.totalFreq_eq_freqSum]; omega)
  have hps := H.length
  obtain ⟨hleaf, hl, hr, -, hsym, hf⟩ := H.inner_node (Nat.le_add_right _ k) (by omega)
  have hlink := s.writeTree.nodeLink_toNat (s.presentSymbols.length + k)
  rw [hleaf, hsym, H.reserved _ (by omega)] at hlink
  exact ⟨hleaf, hsym, ⟨hl, hr, hf⟩, hlink.trans (by simp)⟩

theorem State.writeTree_sumsChildren {k : Nat} (hk : k + 1 < n) : SumsChildren s.writeTree (n + k) := by
  obtain ⟨-, -, hsum, -⟩ := State.writeTree_parent hwf hn htot hk
  exact hsum

/-- Q before the first round: the keys of the leaves (R111). -/
theorem State.writeTree_queueHolds (hp : 0 < n) : QueueHolds s.writeTree n 0 (leafKeys s.leaves) := by
  subst hn
  obtain ⟨ps, root, H⟩ := State.writeTree_holdsTree hwf (State.presentSymbols_ne_nil hp)
    (by rw [s.totalFreq_eq_freqSum]; omega)
  have hkeys : leafKeys s.leaves = (List.range s.presentSymbols.length).map s.writeTree.keyAt := by
    refine List.ext_getElem (by simp [leafKeys_length, State.leaves_length]) (fun j h1 h2 => ?_)
    obtain ⟨-, -, -, -, hf⟩ := H.leaf j (by simpa using h2)
    simp [leafKeys, State.leaves, State.leafNode, State.keyAt, hf]
  rw [hkeys]
  refine ⟨List.nodup_range.map fun i j h => congrArg Key.idx h, fun x => ?_⟩
  rw [List.mem_map]
  constructor
  · rintro ⟨j, hj, rfl⟩
    exact ⟨⟨List.mem_range.1 hj, fun _ h => absurd h (Nat.not_lt_zero _)⟩, rfl⟩
  · rintro ⟨⟨hlt, -⟩, hx⟩
    exact ⟨x.idx, List.mem_range.2 hlt, hx.symm⟩

omit htot in
/-- After the leaves NODE holds what `combine` makes (R112). -/
theorem State.writeTree_holdsChildren (hp : 0 < n) : HoldsChildren s.writeTree n (combine n n (leafKeys s.leaves)) := by
  have hnil := State.presentSymbols_ne_nil (hn ▸ hp)
  rw [← s.leaves_length] at hn
  subst hn
  intro k hk
  have hi : s.leaves.length + k < (treeNodes s.leaves).length := by
    rw [treeNodes, List.length_append]
    omega
  have hnd : (treeNodes s.leaves)[s.leaves.length + k] = (combine _ _ (leafKeys s.leaves))[k] := by
    simp [treeNodes]
  obtain ⟨-, hl⟩ := State.node_of_setNodes (t := s.writeTree) hwf rfl
    (State.treeNodes_length_le hnil) hi
  rw [State.leftAt, State.rightAt, State.left, State.right, hl, hnd, linkLeft_link, linkRight_link]
  exact ⟨rfl, rfl⟩

omit hwf htot in
/-- One round less than there are leaves (R115). -/
theorem combine_leafKeys_length (hp : 0 < n) : (combine n n (leafKeys s.leaves)).length + 1 = n := by
  subst hn
  have hlen := State.treeNodes_length (State.presentSymbols_ne_nil hp)
  rw [treeNodes, List.length_append, s.leaves_length] at hlen
  omega

/-- Each parent combines the two nodes of least key in Q (R112). -/
theorem State.writeTree_takesLeast {k : Nat} (hk : k + 1 < n) : TakesLeast s.writeTree n k := by
  have hp : 0 < n := by omega
  have hlen := combine_leafKeys_length hn hp
  have h := QueueHolds.combine_takesLeast (hn ▸ presentSymbols_length_le s)
    (fun _ hk => State.writeTree_sumsChildren hwf hn htot hk) n 0 _ (State.writeTree_queueHolds hwf hn htot hp)
    (State.writeTree_holdsChildren hwf hn hp) (by rw [Nat.add_zero]; omega) k (by rw [Nat.add_zero]; omega)
  rwa [Nat.zero_add] at h

end

/-- Settles O18: the list `combine` works on is Q in every round, and a round takes its two least keys. -/
theorem buildCombinesLeastKeys : Obligations.BuildCombinesLeastKeys := by
  intro s n k hwf hn hk htot
  obtain ⟨hleaf, hsym, hsum, hlink⟩ := State.writeTree_parent hwf hn htot hk
  obtain ⟨hleft, hright, hbelow, hrest⟩ := State.writeTree_takesLeast hwf hn htot hk
  exact ⟨_, exec_build_of_fits (State.presentSymbols_ne_nil (hn ▸ hk)) htot, hleaf, hsym, hleft, hright, hbelow, hrest,
    hsum.freq, hlink⟩

/-- Settles O19: both children of the next parent are at least as frequent as the more frequent child of this one. -/
theorem parentFrequenciesRise : Obligations.ParentFrequenciesRise := by
  intro s n k hwf hn hk htot
  have hsum : ∀ k', k' ≤ k + 1 → SumsChildren s.writeTree (n + k') := fun k' hk' =>
    State.writeTree_sumsChildren hwf hn htot (by omega)
  have hnow := State.writeTree_takesLeast hwf hn htot (k := k) (by omega)
  have hthen := State.writeTree_takesLeast hwf hn htot (k := k + 1) hk
  have hle := hnow.right_freq_le fun k' hk' => hsum k' (by omega)
  refine ⟨_, exec_build_of_fits (State.presentSymbols_ne_nil (hn ▸ hk)) htot, ?_⟩
  calc s.writeTree.freqAt (n + k)
    _ = s.writeTree.freqAt (s.writeTree.leftAt (n + k)) + s.writeTree.freqAt (s.writeTree.rightAt (n + k)) :=
      (hsum k (by omega)).freq
    _ ≤ s.writeTree.freqAt (s.writeTree.leftAt (n + (k + 1))) + s.writeTree.freqAt (s.writeTree.rightAt (n + (k + 1))) :=
      Nat.add_le_add (hnow.below.freqAt_le.trans (hle _ hthen.left)) (hle _ hthen.right)
    _ = s.writeTree.freqAt (n + (k + 1)) := (hsum (k + 1) (le_refl _)).freq.symm

end Sys2Proof.Machine
end

section
/-! SUPPORT. O21, O23, O24: the error ends of DERIVE, DECODE and SERIALIZE; which code each CODE entry holds after DERIVE, and
what DERIVE leaves alone. -/

namespace Sys2Proof.Machine

/-! ### The two ends of DERIVE and SERIALIZE -/

section
variable {s : State}

theorem exec_derive_of_tree (h : s.treeValid = true) : exec .derive s = .next s.derived :=
  congrArg Host.Outcome.next (if_pos h)

theorem exec_derive_of_no_tree (h : s.treeValid = false) : exec .derive s = .next (s.fail .noTree s.pendWord) :=
  congrArg Host.Outcome.next (if_neg (Bool.eq_false_iff.1 h))

theorem exec_serialize_of_codes (h : s.codeValid = true) : exec .serialize s = .next (s.emitTbl s.tableText).complete :=
  congrArg Host.Outcome.next (if_pos h)

theorem exec_serialize_of_no_codes (h : s.codeValid = false) :
    exec .serialize s = .next (s.fail .noCode s.pendWord) :=
  congrArg Host.Outcome.next (if_neg (Bool.eq_false_iff.1 h))

theorem State.decodeStart_of_no_tree (h : s.treeValid = false) (lim : Bool) :
    s.decodeStart lim = s.fail .noTree s.pendWord :=
  if_neg (Bool.eq_false_iff.1 h)

end

/-- Settles O21: each of the four commands without what it needs is `fail` with its cause and the command word. -/
theorem missingInputStopsCommands : Obligations.MissingInputStopsCommands := by
  intro s i c hi
  have he : exec i s = .next (s.fail c s.pendWord) := by
    rcases hi with ⟨htree, hmem, rfl⟩ | ⟨hcode, rfl, rfl⟩
    · simp only [List.mem_cons, List.not_mem_nil, or_false] at hmem
      rcases hmem with rfl | rfl | rfl
      · exact exec_derive_of_no_tree htree
      · exact congrArg Host.Outcome.next (State.decodeStart_of_no_tree htree false)
      · exact congrArg Host.Outcome.next (State.decodeStart_of_no_tree htree true)
    · exact exec_serialize_of_no_codes hcode
  exact ⟨_, he, s.fail_raised c s.pendWord, s.fail_completed c s.pendWord, .refl s, .refl s, .refl s, .refl s, .refl s,
    .refl s⟩

/-! ### The code a CODE entry holds -/

/-- The nine words of CODE[sym] are those of the code c (R40); an entry without a code holds the empty one. -/
def Memory.HoldsCode (m : Memory) (sym : Byte) (c : Code) : Prop :=
  ∀ w (hw : w < (codeWords c).length), m.getWord (codeAddr sym + 4 * w) = (codeWords c)[w]

theorem packBits_replicate_false (n w : Nat) : packBits (List.replicate n false) w = 0#32 := by
  unfold packBits
  ext i hi
  simp

/-- An entry with a code of 0 bits only: the length, then zeros. -/
theorem Memory.HoldsCode.word_of_zeros {m : Memory} {sym : Byte} {n w : Nat}
    (H : m.HoldsCode sym (List.replicate n false)) (hw : w < 9) :
    m.getWord (codeAddr sym + 4 * w) = if w = 0 then (BitVec.ofNat 8 n).zeroExtend 32 else 0#32 := by
  rw [H w (by rwa [codeWords_length])]
  cases w with
  | zero => simp [codeWords]
  | succ w => simp [codeWords, packBits_replicate_false]

theorem Memory.holdsCode_clearCodes (m : Memory) (sym : Byte) : m.clearCodes.HoldsCode sym [] := by
  intro w hw
  have hsym := sym.isLt
  rw [codeWords_length] at hw
  have hword : m.clearCodes.getWord (codeAddr sym + 4 * w) = 0#32 :=
    Memory.getWord_zeroRange_inside m (by simp only [codeAddr]; omega) (by simp only [codeAddr]; omega)
  rw [hword]
  cases w with
  | zero => rfl
  | succ w =>
    have hzero : packBits [] w = 0#32 := packBits_replicate_false 0 w
    simp [codeWords, hzero]

theorem Memory.holdsCode_storeCode_same {m : Memory} (h : m.wf = true) (sym : Byte) (c : Code) :
    (m.storeCode sym c).HoldsCode sym c := fun w hw => Memory.getWord_setWords h _ _ w hw

/-- Storing a code changes no other symbol's entry. -/
theorem Memory.HoldsCode.storeCode_other {m : Memory} {sym x : Byte} {c : Code} (H : m.HoldsCode sym c) (h : m.wf = true)
    (hx : sym ≠ x) (d : Code) : (m.storeCode x d).HoldsCode sym c := by
  intro w hw
  have hne : sym.toNat ≠ x.toNat := fun e => hx (BitVec.eq_of_toNat_eq e)
  rw [← H w hw]
  rw [codeWords_length] at hw
  refine Memory.getWord_congr fun k hk => Memory.get_setWords_other h _ _ ?_
  rw [codeWords_length]
  simp only [codeAddr]
  omega

/-- After a list of codes is stored, an entry holds one that the list gives its symbol, or what it held before. -/
theorem Memory.HoldsCode.foldl_storeCode {sym : Byte} (l : List (Byte × Code)) : ∀ {m : Memory} {c₀ : Code},
    m.wf = true → m.HoldsCode sym c₀ →
      ∃ c, (l.foldl (fun m p => m.storeCode p.1 p.2) m).HoldsCode sym c ∧
        ((sym, c) ∈ l ∨ c = c₀ ∧ ∀ e ∈ l, e.1 ≠ sym) := by
  induction l with
  | nil => exact fun _ H => ⟨_, H, Or.inr ⟨rfl, nofun⟩⟩
  | cons e l ih =>
    intro m c₀ hwf H
    have hwf' := Memory.wf_storeCode hwf e.1 e.2
    rw [List.foldl_cons]
    by_cases he : sym = e.1
    · subst he
      obtain ⟨c, hc, hin | ⟨rfl, -⟩⟩ := ih hwf' (Memory.holdsCode_storeCode_same hwf e.1 e.2)
      · exact ⟨c, hc, Or.inl (List.mem_cons_of_mem _ hin)⟩
      · exact ⟨e.2, hc, Or.inl List.mem_cons_self⟩
    · obtain ⟨c, hc, hin | ⟨rfl, hnone⟩⟩ := ih hwf' (H.storeCode_other hwf he e.2)
      · exact ⟨c, hc, Or.inl (List.mem_cons_of_mem _ hin)⟩
      · exact ⟨c, hc, Or.inr ⟨rfl, List.forall_mem_cons.2 ⟨fun h => he h.symm, hnone⟩⟩⟩

/-- After DERIVE each entry holds the code assigned to its symbol, and no code where none was (R124, R125). -/
theorem State.derived_holdsCode {s : State} (h : s.mem.wf = true) (sym : Byte) :
    ∃ c, s.derived.mem.HoldsCode sym c ∧ ((sym, c) ∈ s.assignedCodes ∨ c = [] ∧ ∀ e ∈ s.assignedCodes, e.1 ≠ sym) :=
  (Memory.holdsCode_clearCodes s.mem sym).foldl_storeCode s.assignedCodes (Memory.wf_clearCodes h)

/-! ### What is read from an entry -/

section
variable {t : State} {sym : Byte} {c : Code} (H : t.mem.HoldsCode sym c)
include H

theorem Memory.HoldsCode.lenWord : t.mem.getWord (codeAddr sym) = (BitVec.ofNat 8 c.length).zeroExtend 32 :=
  H 0 (by rw [codeWords_length]; omega)

theorem Memory.HoldsCode.codeLen_eq : t.codeLen sym = BitVec.ofNat 8 c.length := by
  rw [State.codeLen, H.lenWord]
  ext i hi
  have hi' : i < 32 := by omega
  simp [hi, hi']

theorem Memory.HoldsCode.codeLen_toNat (hc : c.length < 256) : (t.codeLen sym).toNat = c.length := by
  rw [H.codeLen_eq]
  exact Nat.mod_eq_of_lt hc

/-- Bits 31:8 of the LEN word are 0 (R40). -/
theorem Memory.HoldsCode.lenWord_toNat : (t.mem.getWord (codeAddr sym)).toNat = (t.codeLen sym).toNat := by
  rw [H.lenWord, H.codeLen_eq]
  exact BitVec.toNat_setWidth_of_le (by omega)

/-- The BITS bits are the code's, then zeros (R40). -/
theorem Memory.HoldsCode.codeBit_eq {k : Nat} (hk : k < 256) : t.codeBit sym k = c.getD k false := by
  have hword : t.mem.getWord (codeAddr sym + 4 * (k / 32 + 1)) = packBits c (k / 32) := by
    rw [H _ (by rw [codeWords_length]; omega)]
    simp [codeWords]
  have haddr : codeAddr sym + 4 + 4 * (k / 32) = codeAddr sym + 4 * (k / 32 + 1) := by omega
  rw [State.codeBit, haddr, hword, packBits_bit c _ _ (Nat.mod_lt _ (by omega)), Nat.div_add_mod]

theorem Memory.HoldsCode.code_eq (hc : c.length < 256) : t.code sym = c := by
  refine List.ext_getElem (by simp [State.code, H.codeLen_toNat hc]) fun k hk hk' => ?_
  simp [State.code, H.codeBit_eq (k := k) (by omega), hk']

theorem Memory.HoldsCode.codeLen_eq_zero_iff (hc : c.length < 256) : t.codeLen sym = 0#8 ↔ c = [] := by
  rw [← BitVec.toNat_inj, H.codeLen_toNat hc]
  exact List.length_eq_zero_iff

end

/-! ### MAXLEN and the frame -/

/-- MAXLEN is the greatest length there is (R32). -/
theorem State.longestCode_toNat (s : State) : ∃ hne : allSymbols.map (fun sym => (s.codeLen sym).toNat) ≠ [],
    s.longestCode.toNat = (allSymbols.map (fun sym => (s.codeLen sym).toNat)).max hne := by
  have hne : allSymbols.map (fun sym => (s.codeLen sym).toNat) ≠ [] := by simp [allSymbols]
  obtain ⟨sym, -, hmax⟩ := List.mem_map.1 (List.max_mem hne)
  have hlt := (s.codeLen sym).isLt
  refine ⟨hne, ?_⟩
  rw [State.longestCode, ← List.foldl_map (f := fun sym => (s.codeLen sym).toNat) (g := max), List.foldl_max_eq_max hne, Nat.zero_max]
  exact Nat.mod_eq_of_lt (hmax ▸ hlt)

theorem State.codeLen_le_longestCode (s : State) (sym : Byte) : (s.codeLen sym).toNat ≤ s.longestCode.toNat := by
  obtain ⟨hne, he⟩ := s.longestCode_toNat
  rw [he]
  exact List.le_max_of_mem (List.mem_map_of_mem (f := fun sym => (s.codeLen sym).toNat) (mem_allSymbols sym))

theorem State.exists_codeLen_eq_longestCode (s : State) : ∃ sym, s.codeLen sym = s.longestCode := by
  obtain ⟨hne, he⟩ := s.longestCode_toNat
  obtain ⟨sym, -, hsym⟩ := List.mem_map.1 (List.max_mem hne)
  exact ⟨sym, BitVec.eq_of_toNat_eq (hsym.trans he.symm)⟩

/-- Settles O24: the codes are stored in CODE alone, and MAXLEN is read from the entries stored. -/
theorem deriveWritesOnlyCodes : Obligations.DeriveWritesOnlyCodes := by
  intro s hwf htree
  have hbytes : ∀ a, a < 0x4000 ∨ 0x8000 ≤ a → s.derived.mem.get a = s.mem.get a := fun a ha =>
    (State.get_storeCodes hwf a).trans (if_neg (by omega))
  exact ⟨_, exec_derive_of_tree htree, rfl, State.complete_completed _, hbytes, s.storeCodes.codeLen_le_longestCode,
    s.storeCodes.exists_codeLen_eq_longestCode, .refl s, rfl, rfl, .refl s, .refl s, .refl s, .refl s, .refl s⟩

/-! ### The single tree -/

/-- Over a single tree the one symbol's entry holds "0" and every other entry no code (R126). -/
theorem State.derived_holdsCode_of_single {s : State} (hwf : s.mem.wf = true) (h1 : s.single = true) (sym : Byte) :
    s.derived.mem.HoldsCode sym (if sym = s.symAt 0 then [false] else []) := by
  have hcodes : s.assignedCodes = [(s.symAt 0, [false])] := if_pos h1
  obtain ⟨c, H, hc⟩ := State.derived_holdsCode hwf sym
  rw [hcodes, List.mem_singleton, Prod.mk.injEq, List.forall_mem_singleton] at hc
  rcases hc with ⟨hsym, rfl⟩ | ⟨rfl, hne⟩
  · rwa [if_pos hsym]
  · rwa [if_neg fun e => hne e.symm]

/-- Settles O23: the two codes there can be, read from the entries. -/
theorem singleSymbolCode : Obligations.SingleSymbolCode := by
  intro s hwf htree h1
  have H := State.derived_holdsCode_of_single hwf h1
  have hself := H (s.symAt 0)
  rw [if_pos rfl] at hself
  have hother : ∀ sym, sym ≠ s.symAt 0 → s.derived.codeLen sym = 0#8 := fun sym hne => by
    rw [(H sym).codeLen_eq, if_neg hne]
    rfl
  have hmax : s.derived.maxlen = 1#8 := by
    obtain ⟨sym, hsym⟩ := s.storeCodes.exists_codeLen_eq_longestCode
    by_cases he : sym = s.symAt 0
    · exact hsym.symm.trans (he ▸ hself.codeLen_eq)
    · have hle := s.storeCodes.codeLen_le_longestCode (s.symAt 0)
      have hone : s.storeCodes.codeLen (s.symAt 0) = 1#8 := hself.codeLen_eq
      have hzero : s.storeCodes.codeLen sym = 0#8 := hother sym he
      rw [← hsym, hone, hzero] at hle
      exact absurd hle (by decide)
  refine ⟨_, exec_derive_of_tree htree, hself.code_eq (by decide), hself.codeLen_eq, hother, fun sym w hw => ?_, hmax, rfl,
    State.complete_completed _⟩
  by_cases he : sym = s.symAt 0
  · subst he
    simpa [codeAddr] using Memory.HoldsCode.word_of_zeros (n := 1) hself hw
  · have hnone := H sym
    rw [if_neg he] at hnone
    simpa [codeAddr, he] using Memory.HoldsCode.word_of_zeros (n := 0) hnone hw

end Sys2Proof.Machine
end

section
/-! SUPPORT. O22, O25: the codes of a tree are the paths from its root, a path to a leaf passes no other leaf, and DERIVE stores
with each symbol a path to its leaf. -/

namespace Sys2Proof.Machine

/-! ### Paths from the root -/

/-- The code leads from the root to the node, over internal nodes (R125). -/
inductive PathTo (s : State) : Code → NodeIdx → Prop where
  | root : PathTo s [] s.root
  | down {p : Code} {i : NodeIdx} (hp : PathTo s p i) (hi : s.isLeaf i = false) (b : Bool) :
      PathTo s (p ++ [b]) (s.child i b)

/-- The code is the path to the leaf of the symbol. -/
def LeafPath (s : State) (sym : Byte) (c : Code) : Prop := ∃ j, PathTo s c j ∧ s.isLeaf j = true ∧ s.nodeSym j = sym

theorem State.follow_append (s : State) (i : NodeIdx) (c d : Code) : s.follow i (c ++ d) = s.follow (s.follow i c) d := by
  induction c generalizing i with
  | nil => rfl
  | cons b c ih => exact ih (s.child i b)

section
variable {s : State} {c d : Code} {i j : NodeIdx}

theorem PathTo.follow (h : PathTo s c j) : s.follow s.root c = j := by
  induction h with
  | root => rfl
  | down hp hi b ih => rw [s.follow_append, ih]; rfl

/-- Each shorter part of a path stands at an internal node. -/
theorem PathTo.take_inner (h : PathTo s c j) {k : Nat} (hk : k < c.length) :
    s.isLeaf (s.follow s.root (c.take k)) = false := by
  induction h with
  | root => cases hk
  | @down p i hp hi b ih =>
    rw [List.length_append, List.length_singleton] at hk
    rw [List.take_append_of_le_length (by omega)]
    rcases Nat.lt_succ_iff_lt_or_eq.1 hk with hlt | rfl
    · exact ih hlt
    · rwa [List.take_length, hp.follow]

/-- A path that begins with the path to a leaf is that path. -/
theorem PathTo.eq_of_prefix (hc : PathTo s c i) (hi : s.isLeaf i = true) (hd : PathTo s d j) (h : c <+: d) : c = d := by
  refine h.eq_of_length (h.length_le.eq_of_not_lt fun hlt => ?_)
  have hinner := hd.take_inner hlt
  rw [← List.prefix_iff_eq_take.1 h, hc.follow, hi] at hinner
  cases hinner

/-- Paths are read from NODE and ROOT alone. -/
theorem PathTo.of_bytes {t : State} (h : PathTo s c j)
    (hb : ∀ a, 0x2000 ≤ a → a < 0x3000 → t.mem.get a = s.mem.get a) (hr : t.root = s.root) : PathTo t c j := by
  induction h with
  | root => exact hr ▸ .root
  | @down p i hp hi b ih =>
    have hchild : t.child i b = s.child i b := by
      simp only [State.child, State.left_of_bytes hb, State.right_of_bytes hb]
    exact hchild ▸ .down ih ((State.isLeaf_of_bytes hb i).trans hi) b

end

/-! ### The walk lists the paths to the leaves -/

section
variable {s : State} {p c : Code} {i : NodeIdx}

theorem State.walk_leaf (hi : s.isLeaf i = true) (fuel : Nat) (p : Code) : s.walk (fuel + 1) i p = [(s.nodeSym i, p)] :=
  if_pos hi

theorem State.walk_inner (hi : s.isLeaf i = false) (fuel : Nat) (p : Code) : s.walk (fuel + 1) i p =
    s.walk fuel (s.child i false) (p ++ [false]) ++ s.walk fuel (s.child i true) (p ++ [true]) :=
  if_neg (Bool.eq_false_iff.1 hi)

theorem PathTo.leafPath_of_mem_walk {fuel : Nat} (hp : PathTo s p i) {e : Byte × Code} (he : e ∈ s.walk fuel i p) :
    LeafPath s e.1 e.2 := by
  induction fuel generalizing i p with
  | zero => cases he
  | succ fuel ih =>
    cases hi : s.isLeaf i with
    | true =>
      rw [State.walk_leaf hi, List.mem_singleton] at he
      exact he ▸ ⟨i, hp, hi, rfl⟩
    | false =>
      rw [State.walk_inner hi, List.mem_append] at he
      exact he.elim (ih (hp.down hi false)) (ih (hp.down hi true))

theorem PathTo.walk_subset (hp : PathTo s p i) {fuel : Nat} (hf : fuel + p.length = 256) :
    s.walk fuel i p ⊆ s.walk 256 s.root [] := by
  induction hp generalizing fuel with
  | root => rw [show fuel = 256 from hf]; exact List.Subset.refl _
  | @down p i hp hi b ih =>
    rw [List.length_append, List.length_singleton] at hf
    refine List.Subset.trans ?_ (ih (fuel := fuel + 1) (by omega))
    rw [State.walk_inner hi]
    cases b
    · exact List.subset_append_left _ _
    · exact List.subset_append_right _ _

theorem LeafPath.mem_walk {sym : Byte} (h : LeafPath s sym c) (hc : c.length < 256) : (sym, c) ∈ s.walk 256 s.root [] := by
  obtain ⟨j, hp, hj, rfl⟩ := h
  refine hp.walk_subset (fuel := 255 - c.length + 1) (by omega) ?_
  rw [State.walk_leaf hj]
  exact List.mem_singleton_self _

end

/-! ### Parents and children in a valid tree -/

theorem State.symAt_toNat (s : State) (i : NodeIdx) : s.symAt i.toNat = s.nodeSym i := by
  rw [State.symAt, BitVec.ofNat_toNat, BitVec.setWidth_eq]

section
variable {s : State} (h : TreeInv s) (hv : s.treeValid = true)
include h hv

/-- A tree of n leaves, at most 256, has 2n - 1 nodes, and the root is the last (R28 to R30). -/
theorem TreeInv.counts : 1 ≤ s.nsym.toNat ∧ s.nsym.toNat ≤ 256 ∧ s.nnode.toNat = 2 * s.nsym.toNat - 1 ∧
    s.root.toNat = 2 * s.nsym.toNat - 2 := by
  obtain ⟨⟨⟨hn, hle, hnn, hr, -⟩, -⟩, -⟩ := h.2.2 hv
  exact ⟨hn, hle, hnn, hr⟩

theorem TreeInv.isLeaf_iff {i : NodeIdx} (hi : i.toNat ≤ s.root.toNat) : s.isLeaf i = true ↔ i.toNat < s.nsym.toNat := by
  obtain ⟨-, ⟨hleaf, -⟩, hinner, -⟩ := h.2.2 hv
  have hroot := h.root_lt hv
  rw [← s.leafAt_toNat]
  refine ⟨fun hl => ?_, fun hlt => (hleaf _ hlt).1⟩
  by_contra hge
  rw [(hinner i.toNat (by omega) (by omega)).1] at hl
  cases hl

theorem TreeInv.nsym_le_of_inner {i : NodeIdx} (hi : i.toNat ≤ s.root.toNat) (hl : s.isLeaf i = false) :
    s.nsym.toNat ≤ i.toNat :=
  Nat.not_lt.1 fun hlt => by simp [(h.isLeaf_iff hv hi).2 hlt] at hl

/-- A child stands below its parent (R46). -/
theorem TreeInv.child_lt_parent {i : NodeIdx} (hi : i.toNat ≤ s.root.toNat) (hl : s.isLeaf i = false) (b : Bool) :
    (s.child i b).toNat < i.toNat := by
  have hn := h.nsym_le_of_inner hv hi hl
  have hroot := h.root_lt hv
  obtain ⟨-, -, hinner, -⟩ := h.2.2 hv
  obtain ⟨-, hleft, hright, -⟩ := hinner i.toNat (by omega) hn
  rw [s.child_toNat]
  split
  · exact hright
  · exact hleft

/-- A node is a child of one internal node, on one side (R46). -/
theorem TreeInv.child_inj {i i' : NodeIdx} (hi : i.toNat ≤ s.root.toNat) (hi' : i'.toNat ≤ s.root.toNat)
    (hl : s.isLeaf i = false) (hl' : s.isLeaf i' = false) {b b' : Bool} (he : s.child i b = s.child i' b') :
    i = i' ∧ b = b' := by
  have hroot := h.root_lt hv
  have hn := h.nsym_le_of_inner hv hi hl
  have hn' := h.nsym_le_of_inner hv hi' hl'
  have hlt := h.child_lt_parent hv hi hl b
  obtain ⟨-, -, hinner, -, -, hunique⟩ := h.2.2 hv
  have hparent : ∀ (k : NodeIdx) (v : Bool), s.nsym.toNat ≤ k.toNat → s.parentOf k.toNat (s.child k v).toNat = true := by
    intro k v hk
    rw [State.parentOf, s.child_toNat]
    cases v <;> simp [hk]
  obtain rfl : i = i' := BitVec.eq_of_toNat_eq (hunique _ (by omega) i'.toNat (by omega) i.toNat (by omega)
    (he ▸ hparent i' b' hn') (hparent i b hn))
  obtain ⟨-, -, -, hne, -⟩ := hinner i.toNat (by omega) hn
  have hnum := congrArg BitVec.toNat he
  rw [s.child_toNat, s.child_toNat] at hnum
  cases b with
  | false =>
    cases b' with
    | false => exact ⟨rfl, rfl⟩
    | true => exact absurd hnum hne
  | true =>
    cases b' with
    | false => exact absurd hnum.symm hne
    | true => exact ⟨rfl, rfl⟩

/-- Every node below the root has a parent (R46). -/
theorem TreeInv.exists_parent {j : NodeIdx} (hj : j.toNat < s.root.toNat) :
    ∃ i b, i.toNat ≤ s.root.toNat ∧ s.isLeaf i = false ∧ s.child i b = j := by
  obtain ⟨-, hle, hnn, hr⟩ := h.counts hv
  obtain ⟨-, -, hinner, -, hex, -⟩ := h.2.2 hv
  obtain ⟨i, hi, hp⟩ := hex j.toNat hj
  have hidx : (BitVec.ofNat 9 i).toNat = i := nodeIdx_toNat (by omega)
  simp only [State.parentOf, Bool.and_eq_true, Bool.or_eq_true, decide_eq_true_eq, beq_iff_eq] at hp
  obtain ⟨hn, hside⟩ := hp
  have hchild : ∃ b, s.child (BitVec.ofNat 9 i) b = j := by
    rcases hside with hl | hr
    · exact ⟨false, BitVec.eq_of_toNat_eq (by rw [s.child_toNat, hidx]; exact hl)⟩
    · exact ⟨true, BitVec.eq_of_toNat_eq (by rw [s.child_toNat, hidx]; exact hr)⟩
  obtain ⟨b, hb⟩ := hchild
  exact ⟨BitVec.ofNat 9 i, b, by omega, (hinner i hi hn).1, hb⟩

/-- The leaves have different symbols (R46). -/
theorem TreeInv.leaf_eq_of_sym {i j : NodeIdx} (hi : i.toNat < s.nsym.toNat) (hj : j.toNat < s.nsym.toNat)
    (he : s.nodeSym i = s.nodeSym j) : i = j := by
  obtain ⟨-, ⟨-, hrise⟩, -⟩ := h.2.2 hv
  refine BitVec.eq_of_toNat_eq ?_
  rcases Nat.lt_trichotomy i.toNat j.toNat with hlt | heq | hgt
  · exact absurd (hrise _ hj _ hlt) (by rw [s.symAt_toNat, s.symAt_toNat, he]; exact lt_irrefl _)
  · exact heq
  · exact absurd (hrise _ hi _ hgt) (by rw [s.symAt_toNat, s.symAt_toNat, he]; exact lt_irrefl _)

/-! ### The paths of a valid tree -/

/-- Each bit of a path descends. -/
theorem TreeInv.path_le {c : Code} {j : NodeIdx} (hp : PathTo s c j) : c.length + j.toNat ≤ s.root.toNat := by
  induction hp with
  | root => simp
  | @down p i hp hi b ih =>
    have hlt := h.child_lt_parent hv (by omega) hi b
    rw [List.length_append, List.length_singleton]
    omega

/-- A path passes n - 1 internal nodes at most (R128). -/
theorem TreeInv.path_length_lt {c : Code} {j : NodeIdx} (hp : PathTo s c j) : c.length < s.nsym.toNat := by
  obtain ⟨hn, -, -, hr⟩ := h.counts hv
  cases hp with
  | root => exact hn
  | @down p i hp hi b =>
    have hle := h.path_le hv hp
    have hge := h.nsym_le_of_inner hv (by omega) hi
    rw [List.length_append, List.length_singleton]
    omega

theorem TreeInv.leafPath_length_lt {sym : Byte} {c : Code} (hp : LeafPath s sym c) : c.length < s.nsym.toNat := by
  obtain ⟨j, hp, -⟩ := hp
  exact h.path_length_lt hv hp

/-- A path leads to each node: up from the node, every parent has a greater index, until the root. -/
theorem TreeInv.exists_path : ∀ {d : Nat} {j : NodeIdx}, j.toNat + d = s.root.toNat → ∃ c, PathTo s c j := by
  intro d
  induction d using Nat.strong_induction_on with
  | _ d ih =>
    intro j hd
    cases d with
    | zero => exact ⟨[], BitVec.eq_of_toNat_eq hd ▸ .root⟩
    | succ d =>
      obtain ⟨i, b, hi, hl, rfl⟩ := h.exists_parent hv (j := j) (by omega)
      have hlt := h.child_lt_parent hv hi hl b
      obtain ⟨c, hc⟩ := ih (s.root.toNat - i.toNat) (by omega) (j := i) (by omega)
      exact ⟨c ++ [b], hc.down hl b⟩

/-- Only one path leads to a node, as only one parent does. -/
theorem TreeInv.path_unique {c d : Code} {j : NodeIdx} (hc : PathTo s c j) (hd : PathTo s d j) : c = d := by
  have hup : ∀ {p : Code} {i : NodeIdx} (b : Bool), PathTo s p i → s.isLeaf i = false → s.child i b ≠ s.root :=
    fun b hp hi he => by
      have hle := h.path_le hv hp
      have hlt := h.child_lt_parent hv (by omega) hi b
      rw [he] at hlt
      omega
  induction hc generalizing d with
  | root =>
    generalize hj : s.root = j at hd
    cases hd with
    | root => rfl
    | down hq hi b => exact absurd hj.symm (hup b hq hi)
  | @down p i hp hi b ih =>
    generalize hj : s.child i b = j at hd
    cases hd with
    | root => exact absurd hj (hup b hp hi)
    | @down q i' hq hi' b' =>
      have hle := h.path_le hv hp
      have hle' := h.path_le hv hq
      obtain ⟨rfl, rfl⟩ := h.child_inj hv (by omega) (by omega) hi hi' hj
      rw [ih hq]

theorem TreeInv.exists_leafPath {j : Nat} (hj : j < s.nsym.toNat) :
    ∃ c, PathTo s c (BitVec.ofNat 9 j) ∧ LeafPath s (s.symAt j) c := by
  obtain ⟨-, hle, -, hr⟩ := h.counts hv
  obtain ⟨-, ⟨hleaf, -⟩, -⟩ := h.2.2 hv
  have hidx : (BitVec.ofNat 9 j).toNat = j := nodeIdx_toNat (by omega)
  obtain ⟨c, hc⟩ := h.exists_path hv (d := s.root.toNat - j) (j := BitVec.ofNat 9 j) (by omega)
  exact ⟨c, hc, BitVec.ofNat 9 j, hc, (hleaf j hj).1, rfl⟩

/-- The symbol of a leaf has one path. -/
theorem TreeInv.leafPath_unique {sym : Byte} {c d : Code} (hc : LeafPath s sym c) (hd : LeafPath s sym d) : c = d := by
  obtain ⟨i, hpi, hli, rfl⟩ := hc
  obtain ⟨j, hpj, hlj, he⟩ := hd
  have hi := h.path_le hv hpi
  have hj := h.path_le hv hpj
  have hij := h.leaf_eq_of_sym hv ((h.isLeaf_iff hv (by omega)).1 hli) ((h.isLeaf_iff hv (by omega)).1 hlj) he.symm
  exact h.path_unique hv hpi (hij ▸ hpj)

/-- Only the leaves' symbols have a path. -/
theorem TreeInv.exists_leaf {sym : Byte} {c : Code} (hc : LeafPath s sym c) : ∃ j, j < s.nsym.toNat ∧ s.symAt j = sym := by
  obtain ⟨j, hp, hl, rfl⟩ := hc
  have hle := h.path_le hv hp
  exact ⟨j.toNat, (h.isLeaf_iff hv (by omega)).1 hl, s.symAt_toNat j⟩

/-! ### The codes DERIVE stores -/

/-- With two or more leaves the codes assigned are the paths to the leaves (R125). -/
theorem TreeInv.mem_assignedCodes (h1 : s.single = false) {sym : Byte} {c : Code} :
    (sym, c) ∈ s.assignedCodes ↔ LeafPath s sym c := by
  obtain ⟨-, hle, -⟩ := h.counts hv
  have hcodes : s.assignedCodes = s.walk 256 s.root [] := if_neg (Bool.eq_false_iff.1 h1)
  rw [hcodes]
  refine ⟨fun he => PathTo.root.leafPath_of_mem_walk he, fun hp => hp.mem_walk ?_⟩
  have hlt := h.leafPath_length_lt hv hp
  omega

/-- After DERIVE the entry of a symbol with a leaf holds its path, and every other entry no code. -/
theorem TreeInv.derived_holdsCode (hwf : s.mem.wf = true) (h1 : s.single = false) (sym : Byte) :
    ∃ c, s.derived.mem.HoldsCode sym c ∧ c.length < s.nsym.toNat ∧
      (LeafPath s sym c ∨ c = [] ∧ ∀ d, ¬ LeafPath s sym d) := by
  obtain ⟨hn, -⟩ := h.counts hv
  obtain ⟨c, H, hin | ⟨rfl, hnone⟩⟩ := State.derived_holdsCode hwf sym
  · have hp := (h.mem_assignedCodes hv h1).1 hin
    exact ⟨c, H, h.leafPath_length_lt hv hp, Or.inl hp⟩
  · exact ⟨[], H, hn, Or.inr ⟨rfl, fun d hd => hnone _ ((h.mem_assignedCodes hv h1).2 hd) rfl⟩⟩

theorem TreeInv.holdsCode_of_leafPath (hwf : s.mem.wf = true) (h1 : s.single = false) {sym : Byte} {c : Code}
    (hc : LeafPath s sym c) : s.derived.mem.HoldsCode sym c := by
  obtain ⟨d, H, -, hd | ⟨-, hnone⟩⟩ := h.derived_holdsCode hv hwf h1 sym
  · rwa [h.leafPath_unique hv hc hd]
  · exact absurd hc (hnone c)

theorem TreeInv.leafPath_of_codeLen_ne_zero (hwf : s.mem.wf = true) (h1 : s.single = false) {sym : Byte}
    (hlen : s.derived.codeLen sym ≠ 0#8) : LeafPath s sym (s.derived.code sym) := by
  obtain ⟨-, hle, -⟩ := h.counts hv
  obtain ⟨c, H, hc, hp | ⟨rfl, -⟩⟩ := h.derived_holdsCode hv hwf h1 sym
  · rwa [H.code_eq (by omega)]
  · exact absurd H.codeLen_eq hlen

end

/-- Settles O22: the entry of a leaf's symbol holds the path to the leaf, every other entry the empty code. -/
theorem codesArePaths : Obligations.CodesArePaths := by
  intro s hwf h hv h1
  obtain ⟨-, hle, -⟩ := h.counts hv
  refine ⟨_, exec_derive_of_tree hv, rfl, fun j hj => ?_, fun sym => ?_, fun sym hnone => ?_⟩
  · obtain ⟨c, hp, hleaf⟩ := h.exists_leafPath hv hj
    have hlen := h.leafPath_length_lt hv hleaf
    have hpt : PathTo s.derived c (BitVec.ofNat 9 j) :=
      hp.of_bytes (fun _ _ ha => State.get_storeCodes_of_lt hwf (by omega)) rfl
    have H := h.holdsCode_of_leafPath hv hwf h1 hleaf
    have hne : c ≠ [] := by
      rintro rfl
      obtain ⟨i, hi, hl, -⟩ := hleaf
      rw [← hi.follow] at hl
      exact absurd hl (by rw [State.follow, h.root_inner hv h1]; decide)
    have hpos := List.length_pos_iff.2 hne
    rw [H.code_eq (by omega), H.codeLen_toNat (by omega), hpt.follow]
    exact ⟨nodeIdx_toNat (by omega), fun k hk => hpt.take_inner hk, by omega, by omega⟩
  · obtain ⟨c, H, hlen, -⟩ := h.derived_holdsCode hv hwf h1 sym
    refine ⟨H.lenWord_toNat, fun k hk hk' => ?_⟩
    rw [H.codeLen_toNat (by omega)] at hk
    rw [H.codeBit_eq hk', List.getD_eq_default _ _ hk]
  · obtain ⟨c, H, -, hp | ⟨rfl, -⟩⟩ := h.derived_holdsCode hv hwf h1 sym
    · obtain ⟨j, hj, he⟩ := h.exists_leaf hv hp
      exact absurd he (hnone j hj)
    · refine ⟨H.codeLen_eq, fun w hw => ?_⟩
      have hword := Memory.HoldsCode.word_of_zeros (n := 0) H hw
      simpa [codeAddr] using hword

/-- Settles O25: a code that begins another is a path to a leaf that begins another path, so the leaf is the same. A single
tree has one code only. -/
theorem codesAreBeginningFree : Obligations.CodesAreBeginningFree := by
  intro s x y hwf h hv hxy
  refine ⟨_, exec_derive_of_tree hv, fun hx hy hpre => ?_⟩
  cases h1 : s.single with
  | true =>
    have honly : ∀ sym, s.derived.codeLen sym ≠ 0#8 → sym = s.symAt 0 := fun sym hsym => by
      by_contra hne
      have H := State.derived_holdsCode_of_single hwf h1 sym
      rw [if_neg hne] at H
      exact hsym H.codeLen_eq
    exact hxy ((honly x hx).trans (honly y hy).symm)
  | false =>
    obtain ⟨i, hi, hli, hsx⟩ := h.leafPath_of_codeLen_ne_zero hv hwf h1 hx
    obtain ⟨j, hj, -, hsy⟩ := h.leafPath_of_codeLen_ne_zero hv hwf h1 hy
    have he := hi.eq_of_prefix hli hj hpre
    rw [← hi.follow, he, hj.follow] at hsx
    exact hxy (hsx.symm.trans hsy)

end Sys2Proof.Machine
end

section
/-! SUPPORT. O26: a binary tree's paths fill it (Kraft's equality), and the walk lists each leaf once. -/

namespace Sys2Proof.Machine

/-! ### The codes of a walk differ -/

section
variable {s : State}

theorem State.prefix_of_mem_walk {fuel : Nat} {i : NodeIdx} {p : Code} {e : Byte × Code} (he : e ∈ s.walk fuel i p) :
    p <+: e.2 := by
  induction fuel generalizing i p with
  | zero => cases he
  | succ fuel ih =>
    cases hi : s.isLeaf i with
    | true =>
      rw [State.walk_leaf hi, List.mem_singleton] at he
      exact he ▸ List.prefix_refl p
    | false =>
      rw [State.walk_inner hi, List.mem_append] at he
      rcases he with he | he
      · exact (List.prefix_append p _).trans (ih he)
      · exact (List.prefix_append p _).trans (ih he)

/-- The paths on the left of a node differ from those on the right. -/
theorem State.walk_codes_ne (fuel : Nat) (i : NodeIdx) (p : Code) :
    (s.walk fuel i p).Pairwise (fun a b => a.2 ≠ b.2) := by
  induction fuel generalizing i p with
  | zero => exact .nil
  | succ fuel ih =>
    cases hi : s.isLeaf i with
    | true => rw [State.walk_leaf hi]; exact List.pairwise_singleton _ _
    | false =>
      rw [State.walk_inner hi, List.pairwise_append]
      refine ⟨ih _ _, ih _ _, fun a ha b hb hab => ?_⟩
      have hleft := State.prefix_of_mem_walk ha
      have hright := State.prefix_of_mem_walk hb
      rw [← hab] at hright
      have heq := (List.prefix_of_prefix_length_le hleft hright (by simp)).eq_of_length (by simp)
      simp at heq

end

section
variable {s : State} (h : TreeInv s) (hv : s.treeValid = true)
include h hv

/-- The paths below a node weigh as much as the node: an internal node's weight is the sum of its children's. -/
theorem TreeInv.sum_walk {fuel : Nat} : ∀ {i : NodeIdx} {p : Code}, i.toNat ≤ s.root.toNat → 1 ≤ fuel →
    i.toNat + 1 < s.nsym.toNat + fuel → p.length + fuel ≤ 256 →
    ((s.walk fuel i p).map (fun e => 2 ^ (255 - e.2.length))).sum = 2 ^ (255 - p.length) := by
  induction fuel with
  | zero => omega
  | succ fuel ih =>
    intro i p hi _ hdepth hp
    cases hl : s.isLeaf i with
    | true => simp [State.walk_leaf hl]
    | false =>
      have hn := h.nsym_le_of_inner hv hi hl
      have hside : ∀ b, ((s.walk fuel (s.child i b) (p ++ [b])).map (fun e => 2 ^ (255 - e.2.length))).sum =
          2 ^ (255 - (p.length + 1)) := fun b => by
        have hlt := h.child_lt_parent hv hi hl b
        have hlen : (p ++ [b]).length = p.length + 1 := by simp
        rw [ih (by omega) (by omega) (by omega) (by omega), hlen]
      have hpow : 255 - p.length = 255 - (p.length + 1) + 1 := by omega
      rw [State.walk_inner hl, List.map_append, List.sum_append, hside, hside, hpow, pow_succ]
      omega

/-- The walk from the root lists the symbol of each leaf once. -/
theorem TreeInv.walk_symbols_perm :
    ((s.walk 256 s.root []).map Prod.fst).Perm ((List.range s.nsym.toNat).map s.symAt) := by
  obtain ⟨-, hle, -⟩ := h.counts hv
  have hpath : ∀ e ∈ s.walk 256 s.root [], LeafPath s e.1 e.2 := fun e he => PathTo.root.leafPath_of_mem_walk he
  have hwalk : ((s.walk 256 s.root []).map Prod.fst).Nodup := by
    refine List.pairwise_map.2 ((State.walk_codes_ne 256 s.root []).imp_of_mem fun {a b} ha hb hne he => hne ?_)
    exact h.leafPath_unique hv (hpath a ha) (he ▸ hpath b hb)
  have hleaves : ((List.range s.nsym.toNat).map s.symAt).Nodup := by
    refine List.Nodup.map_on (fun i hi j hj he => ?_) List.nodup_range
    rw [List.mem_range] at hi hj
    have hidx : ∀ k, k < s.nsym.toNat → (BitVec.ofNat 9 k).toNat = k := fun k hk => nodeIdx_toNat (by omega)
    rw [← hidx i hi, ← hidx j hj, h.leaf_eq_of_sym hv (by rwa [hidx i hi]) (by rwa [hidx j hj]) he]
  refine (List.perm_ext_iff_of_nodup hwalk hleaves).2 fun sym => ?_
  simp only [List.mem_map, List.mem_range]
  constructor
  · rintro ⟨e, he, rfl⟩
    exact h.exists_leaf hv (hpath e he)
  · rintro ⟨j, hj, rfl⟩
    obtain ⟨c, -, hc⟩ := h.exists_leafPath hv hj
    have hlt := h.leafPath_length_lt hv hc
    exact ⟨(s.symAt j, c), hc.mem_walk (by omega), rfl⟩

end

/-- Settles O26: the lengths stored are those of the walk's paths, which fill the tree. -/
theorem codeLengthsFillTree : Obligations.CodeLengthsFillTree := by
  intro s hwf h hv h1
  obtain ⟨hn, hle, -, hr⟩ := h.counts hv
  have hlen : ∀ e ∈ s.walk 256 s.root [], (s.derived.codeLen e.1).toNat = e.2.length := fun e he => by
    have hp : LeafPath s e.1 e.2 := PathTo.root.leafPath_of_mem_walk he
    have hlt := h.leafPath_length_lt hv hp
    exact (h.holdsCode_of_leafPath hv hwf h1 hp).codeLen_toNat (by omega)
  refine ⟨_, exec_derive_of_tree hv, ?_⟩
  calc ((List.range s.nsym.toNat).map (fun j => 2 ^ (255 - (s.derived.codeLen (s.symAt j)).toNat))).sum
    _ = (((List.range s.nsym.toNat).map s.symAt).map (fun sym => 2 ^ (255 - (s.derived.codeLen sym).toNat))).sum := by
      rw [List.map_map]
      rfl
    _ = (((s.walk 256 s.root []).map Prod.fst).map (fun sym => 2 ^ (255 - (s.derived.codeLen sym).toNat))).sum :=
      ((h.walk_symbols_perm hv).symm.map _).sum_eq
    _ = ((s.walk 256 s.root []).map (fun e => 2 ^ (255 - e.2.length))).sum := by
      rw [List.map_map]
      exact congrArg List.sum (List.map_congr_left fun e he => by rw [Function.comp_apply, hlen e he])
    _ = 2 ^ 255 := h.sum_walk hv (le_refl _) (by omega) (by omega) (by simp)

end Sys2Proof.Machine
end

section
/-! SUPPORT. O27, O28: the decimal output, and the lines of SERIALIZE. -/

namespace Sys2Proof.Machine

/-! ### Decimal digits -/

/-- The ASCII digit of a number below 10 (R132). -/
def decDigit (d : Nat) : Byte := BitVec.ofNat 8 (0x30 + d)

/-- The bytes are the decimal digits of v, most significant first, without a leading zero but for 0 itself (R132). -/
structure IsDecimal (v : Nat) (ds : List Byte) : Prop where
  nonempty : ds ≠ []
  digits : ∀ d ∈ ds, 0x30 ≤ d.toNat ∧ d.toNat ≤ 0x39
  value : ds.foldl (fun x d => 10 * x + (d.toNat - 0x30)) 0 = v
  lead : ds.head? = some 0x30#8 → v = 0 ∧ ds = [0x30#8]

theorem decDigit_toNat {d : Nat} (h : d < 10) : (decDigit d).toNat = 0x30 + d := by
  simp only [decDigit, BitVec.toNat_ofNat]
  omega

theorem IsDecimal.digit {d : Nat} (h : d < 10) : IsDecimal d [decDigit d] where
  nonempty := by simp
  digits := by simp [decDigit_toNat h]; omega
  value := by simp [decDigit_toNat h]
  lead := fun hz => by
    have hz : decDigit d = 0x30#8 := by simpa using hz
    have hnum := decDigit_toNat h
    rw [hz] at hnum
    exact ⟨by simpa using hnum.symm, by rw [hz]⟩

/-- A digit after those of a number other than 0. -/
theorem IsDecimal.append_digit {v d : Nat} {ds : List Byte} (H : IsDecimal v ds) (hv : v ≠ 0) (hd : d < 10) :
    IsDecimal (10 * v + d) (ds ++ [decDigit d]) where
  nonempty := by simp
  digits := by
    intro x hx
    rcases List.mem_append.1 hx with hx | hx
    · exact H.digits x hx
    · rw [List.mem_singleton.1 hx, decDigit_toNat hd]
      omega
  value := by simp [H.value, decDigit_toNat hd]
  lead := fun hz => by
    rw [List.head?_append_of_ne_nil _ H.nonempty] at hz
    exact absurd (H.lead hz).1 hv

theorem decDigits_append (fuel v : Nat) (ds : List Byte) : decDigits fuel v ds = decDigits fuel v [] ++ ds := by
  induction fuel generalizing v ds with
  | zero => rfl
  | succ fuel ih =>
    unfold decDigits
    split
    · rfl
    · rw [ih, ih _ [_], List.append_assoc, List.singleton_append]

theorem decDigits_of_lt {v : Nat} (h : v < 10) (fuel : Nat) : decDigits (fuel + 1) v [] = [decDigit v] := if_pos h

theorem decDigits_of_ge {v : Nat} (h : ¬ v < 10) (fuel : Nat) :
    decDigits (fuel + 1) v [] = decDigits fuel (v / 10) [] ++ [decDigit (v % 10)] :=
  (if_neg h).trans (decDigits_append _ _ _)

/-- As many digits as there is fuel are enough for a number below that power of 10. -/
theorem decDigits_isDecimal (fuel : Nat) : ∀ v, v < 10 ^ (fuel + 1) →
    IsDecimal v (decDigits (fuel + 1) v []) ∧ (decDigits (fuel + 1) v []).length ≤ fuel + 1 := by
  induction fuel with
  | zero =>
    intro v hv
    rw [decDigits_of_lt hv]
    exact ⟨.digit hv, le_refl _⟩
  | succ fuel ih =>
    intro v hv
    by_cases h : v < 10
    · rw [decDigits_of_lt h]
      exact ⟨.digit h, by simp⟩
    · rw [pow_succ] at hv
      obtain ⟨H, hlen⟩ := ih (v / 10) (by omega)
      have happ := H.append_digit (d := v % 10) (by omega) (by omega)
      rw [Nat.div_add_mod] at happ
      rw [decDigits_of_ge h, List.length_append]
      exact ⟨happ, Nat.succ_le_succ hlen⟩

/-- Settles O28: ten digits are enough for 32 bits. -/
theorem decimalDigits : Obligations.DecimalDigits := by
  intro v
  have hv := v.isLt
  obtain ⟨H, hlen⟩ := decDigits_isDecimal 9 v.toNat (by omega)
  exact ⟨List.length_pos_iff.2 H.nonempty, hlen, H.digits, H.value, fun hz =>
    ⟨BitVec.eq_of_toNat_eq (H.lead hz).1, (H.lead hz).2⟩⟩

/-! ### The lines of the table -/

/-- The frequency SERIALIZE finds is that of a leaf below NSYM with the symbol (R130, R133). -/
theorem TreeInv.exists_leafFreq {s : State} (h : TreeInv s) (hv : s.treeValid = true) {j : Nat} (hj : j < s.nsym.toNat) :
    ∃ j', j' < s.nsym.toNat ∧ s.symAt j' = s.symAt j ∧ s.leafFreq (s.symAt j) = s.nodeFreq (BitVec.ofNat 9 j') := by
  obtain ⟨-, -, hnn, -⟩ := h.counts hv
  obtain ⟨-, ⟨hleaf, -⟩, hinner, -⟩ := h.2.2 hv
  rw [State.leafFreq]
  split
  · rename_i i hfind
    obtain ⟨j', hj', rfl⟩ := List.mem_map.1 (List.mem_of_find?_eq_some hfind)
    have hfound := List.find?_some hfind
    rw [Bool.and_eq_true, beq_iff_eq] at hfound
    refine ⟨j', Nat.lt_of_not_le fun hge => ?_, hfound.2, rfl⟩
    rw [List.mem_range] at hj'
    exact absurd (hinner j' hj' hge).1 (by rw [State.leafAt, hfound.1]; decide)
  · rename_i hnone
    have hmem : BitVec.ofNat 9 j ∈ (List.range s.nnode.toNat).map (BitVec.ofNat 9) :=
      List.mem_map_of_mem (List.mem_range.2 (by omega))
    refine absurd ?_ (List.find?_eq_none.1 hnone _ hmem)
    rw [Bool.and_eq_true, beq_iff_eq]
    exact ⟨(hleaf j hj).1, rfl⟩

/-- The text is one line for each symbol with a code, in the order of the symbols (R133). -/
theorem State.tableText_eq (s : State) :
    s.tableText = allSymbols.flatMap fun sym => if s.codeLen sym = 0#8 then [] else s.tableLine sym := by
  rw [State.tableText]
  induction allSymbols with
  | nil => rfl
  | cons sym l ih =>
    rw [List.flatMap_cons, ← ih, List.filter_cons]
    by_cases hlen : s.codeLen sym = 0#8
    · simp [hlen]
    · simp [hlen]

/-- Settles O27: the lines by `tableText`, each frequency by the leaf found for the symbol. -/
theorem serializeEmitsLines : Obligations.SerializeEmitsLines := by
  intro s f h hv hc hf hleaf
  have hfreq : ∀ sym, s.codeLen sym ≠ 0#8 → s.leafFreq sym = f sym := fun sym hlen => by
    obtain ⟨j, hj, rfl⟩ := hleaf sym hlen
    obtain ⟨j', hj', hsym, he⟩ := h.exists_leafFreq hv hj
    rw [he, ← hf j' hj', hsym]
  refine ⟨_, exec_serialize_of_codes hc, State.complete_completed _, congrArg (s.tblOut ++ ·) ?_, rfl, rfl, .refl s,
    .refl s, .refl s, .refl s, .refl s, .refl s⟩
  rw [State.tableText_eq]
  refine List.flatMap_congr fun sym _ => ?_
  split
  · rfl
  · rename_i hlen
    rw [State.tableLine, hfreq sym hlen, State.code, List.map_map]
    rfl

end Sys2Proof.Machine
end

section
/-! SUPPORT. O29 to O38: what DECODE's start step and each token leave, by the branch a bit or EOS takes, and that no bit on a
valid tree of two or more leaves is CORRUPT. -/

namespace Sys2Proof.Machine

theorem SameProgress.refl (s : State) : SameProgress s s := ⟨rfl, rfl, rfl⟩

/-! ### The branches of a bit -/

theorem exec_bitInstr (s : State) (v : Bool) : exec (bitInstr v) s = .next (s.bitToken v) := by cases v <;> rfl

section
variable {s : State}

theorem State.atLimit_eq_false_iff (c : Word) : s.atLimit c = false ↔ ¬(s.decFlags.lim = true ∧ c = s.rootFreq) := by
  rw [← s.atLimit_iff, Bool.not_eq_true]

/-- An emission below the limit keeps the flags and the mode (R141). -/
theorem State.emitLeaf_of_below (h : s.atLimit (s.decCount + 1#32) = false) : s.emitLeaf =
    { s with symOut := s.symOut ++ [s.nodeSym s.decPtr], decCount := s.decCount + 1#32, decPtr := s.root } := by
  simp [State.emitLeaf, h]

/-- The emission that reaches the limit sets LIMIT_HIT and goes to DRAIN (R141). -/
theorem State.emitLeaf_of_reached (h : s.atLimit (s.decCount + 1#32) = true) : s.emitLeaf =
    { s with
      symOut := s.symOut ++ [s.nodeSym s.decPtr]
      decCount := s.decCount + 1#32
      decPtr := s.root
      decFlags := { s.decFlags with limitHit := true }
      dmode := .drain } := by
  simp [State.emitLeaf, h]

theorem State.descend_of_child {v : Bool} (h : s.child s.decPtr v ≠ nilIdx) :
    s.descend v = { s.countBit with decPtr := s.child s.decPtr v } :=
  if_neg h

theorem State.descend_of_nil {v : Bool} (h : s.child s.decPtr v = nilIdx) : s.descend v = s.fail .corrupt s.decBits :=
  if_pos h

theorem State.bitToken_of_drain (h : s.dmode = .drain) (v : Bool) : s.bitToken v = s.drainBit := if_pos h

theorem State.bitToken_of_single (hr : s.dmode = .run) (h1 : s.single = true) (v : Bool) :
    s.bitToken v = s.singleBit v :=
  (if_neg (s.dmode_run_iff.1 hr)).trans (if_pos h1)

section
variable (hr : s.dmode = .run) (h1 : s.single = false)
include hr h1

theorem State.bitToken_of_multi (v : Bool) : s.bitToken v = s.multiBit v :=
  (if_neg (s.dmode_run_iff.1 hr)).trans (if_neg (Bool.eq_false_iff.1 h1))

theorem State.bitToken_of_inner (hl : s.isLeaf s.decPtr = false) (v : Bool) : s.bitToken v = s.descend v :=
  (State.bitToken_of_multi hr h1 v).trans (if_neg (Bool.eq_false_iff.1 hl))

variable (hl : s.isLeaf s.decPtr = true)
include hl

theorem State.bitToken_of_leaf_reached (hlim : s.atLimit (s.decCount + 1#32) = true) (v : Bool) :
    s.bitToken v = s.emitLeaf.countBit := by
  have hd : s.emitLeaf.dmode = .drain := if_pos hlim
  exact (State.bitToken_of_multi hr h1 v).trans ((if_pos hl).trans (if_pos hd))

theorem State.bitToken_of_leaf_below (hlim : s.atLimit (s.decCount + 1#32) = false) (v : Bool) :
    s.bitToken v = s.emitLeaf.descend v := by
  have hd : s.emitLeaf.dmode = .run := (if_neg (Bool.eq_false_iff.1 hlim)).trans hr
  exact (State.bitToken_of_multi hr h1 v).trans ((if_pos hl).trans (if_neg (State.dmode_run_iff _ |>.1 hd)))

end

end

/-! ### The start, the invalid tokens and the bits -/

/-- Settles O29: with a tree the start step is the updates of R139 alone. -/
theorem decodeStarts : Obligations.DecodeStarts := by
  intro s hv p hp
  have he : exec p.1 s = .next (s.decodeStart p.2) := by
    simp only [List.mem_cons, List.not_mem_nil, or_false] at hp
    rcases hp with rfl | rfl <;> rfl
  have hstart : s.decodeStart p.2 = _ := if_pos hv
  rw [hstart] at he
  exact ⟨_, he, rfl, rfl, rfl, rfl, rfl, rfl, rfl, rfl, .refl s, .refl s, .refl s, .refl s, .refl s, .refl s⟩

/-- Settles O31: both invalid tokens are `fail` with FRAMING, whatever the mode. -/
theorem badTokensRaiseFraming : Obligations.BadTokensRaiseFraming := by
  intro s i hi
  have he : exec i s = .next (s.fail .framing s.decBits) := by
    simp only [List.mem_cons, List.not_mem_nil, or_false] at hi
    rcases hi with rfl | rfl <;> rfl
  exact ⟨_, he, s.fail_raised _ _, s.fail_completed _ _, .refl s, .refl s, .refl s, .refl s, .refl s, .refl s⟩

/-- Settles O32: with the pointer at no leaf a bit is the descent. -/
theorem bitDescends : Obligations.BitDescends := by
  intro s v hr h1 hl hchild
  have he := exec_bitInstr s v
  rw [State.bitToken_of_inner hr h1 hl, State.descend_of_child hchild] at he
  exact ⟨_, he, rfl, rfl, rfl, rfl, rfl, .refl s, .refl s, .refl s, .refl s, .refl s, .refl s, .refl s⟩

/-- Settles O33: the emission, then nothing more at the limit, and the descent from the root below it. -/
theorem bitAtLeafEmits : Obligations.BitAtLeafEmits := by
  intro s v hr h1 hl hchild
  have he := exec_bitInstr s v
  cases hlim : s.atLimit (s.decCount + 1#32) with
  | true =>
    have hlim' := (s.atLimit_iff _).1 hlim
    rw [State.bitToken_of_leaf_reached hr h1 hl hlim, State.emitLeaf_of_reached hlim] at he
    exact ⟨_, he, rfl, rfl, rfl, fun _ => ⟨rfl, rfl, rfl⟩, fun hnot => absurd hlim' hnot, rfl, rfl, .refl s, .refl s,
      .refl s, .refl s, .refl s, .refl s⟩
  | false =>
    have hlim' := (State.atLimit_eq_false_iff _).1 hlim
    have hchild' : s.emitLeaf.child s.emitLeaf.decPtr v ≠ nilIdx := hchild hlim'
    rw [State.bitToken_of_leaf_below hr h1 hl hlim, State.descend_of_child hchild', State.emitLeaf_of_below hlim] at he
    exact ⟨_, he, rfl, rfl, rfl, fun h => absurd h hlim', fun _ => ⟨rfl, hr, rfl⟩, rfl, rfl, .refl s, .refl s, .refl s,
      .refl s, .refl s, .refl s⟩

/-- Settles O34: the descent from the node itself or, after the emission, from the root fails with CORRUPT. -/
theorem nilChildIsCorrupt : Obligations.NilChildIsCorrupt := by
  intro s v hr h1
  have he := exec_bitInstr s v
  refine ⟨fun hl hchild => ?_, fun hl hlim hchild => ?_⟩
  · rw [State.bitToken_of_inner hr h1 hl, State.descend_of_nil hchild] at he
    exact ⟨_, he, s.fail_raised _ _, s.fail_completed _ _, .refl s, .refl s, .refl s, .refl s, .refl s, .refl s⟩
  · have hlim' := (State.atLimit_eq_false_iff _).2 hlim
    have hchild' : s.emitLeaf.child s.emitLeaf.decPtr v = nilIdx := hchild
    rw [State.bitToken_of_leaf_below hr h1 hl hlim', State.descend_of_nil hchild', State.emitLeaf_of_below hlim'] at he
    exact ⟨_, he, s.fail_raised _ _, State.fail_completed _ _ _, rfl, rfl, rfl, rfl, rfl, hr, rfl, rfl, .refl s, .refl s,
      .refl s, .refl s⟩

/-- Settles O35: in DRAIN every bit is `drain_bit()`. -/
theorem drainDiscardsBits : Obligations.DrainDiscardsBits := by
  intro s v hd
  have he := exec_bitInstr s v
  rw [State.bitToken_of_drain hd] at he
  exact ⟨_, he, rfl, rfl, rfl, rfl, rfl, .refl s, .refl s, .refl s, .refl s, .refl s, .refl s, .refl s⟩

/-- Settles O36: bit 0 is counted and the leaf emitted, at the limit and below it. -/
theorem singleZeroEmits : Obligations.SingleZeroEmits := by
  intro s hr h1
  have he : exec .bit0 s = .next (s.bitToken false) := rfl
  have hbit : s.singleBit false = s.countBit.emitLeaf := rfl
  rw [State.bitToken_of_single hr h1, hbit] at he
  cases hlim : s.atLimit (s.decCount + 1#32) with
  | true =>
    have hlim' := (s.atLimit_iff _).1 hlim
    rw [State.emitLeaf_of_reached (s := s.countBit) hlim] at he
    exact ⟨_, he, rfl, rfl, rfl, rfl, fun _ => ⟨rfl, rfl⟩, fun hnot => absurd hlim' hnot, rfl, rfl, .refl s, .refl s,
      .refl s, .refl s, .refl s, .refl s⟩
  | false =>
    have hlim' := (State.atLimit_eq_false_iff _).1 hlim
    rw [State.emitLeaf_of_below (s := s.countBit) hlim] at he
    exact ⟨_, he, rfl, rfl, rfl, rfl, fun h => absurd h hlim', fun _ => ⟨hr, rfl⟩, rfl, rfl, .refl s, .refl s, .refl s,
      .refl s, .refl s, .refl s⟩

/-- Settles O37: bit 1 on a single tree is `fail` with CORRUPT. -/
theorem singleOneIsCorrupt : Obligations.SingleOneIsCorrupt := by
  intro s hr h1
  have he : exec .bit1 s = .next (s.bitToken true) := rfl
  have hbit : s.singleBit true = s.fail .corrupt s.decBits := rfl
  rw [State.bitToken_of_single hr h1, hbit] at he
  exact ⟨_, he, s.fail_raised _ _, s.fail_completed _ _, .refl s, .refl s, .refl s, .refl s, .refl s, .refl s⟩

/-! ### The end of the stream -/

section
variable (s : State)

/-- The flush writes no register or stream but those of an emission and PARTIAL. -/
theorem State.flush_frame : s.flush =
    { s with
      symOut := s.flush.symOut
      decCount := s.flush.decCount
      decPtr := s.flush.decPtr
      dmode := s.flush.dmode
      decFlags :=
        { s.decFlags with
          limitHit := s.flush.decFlags.limitHit
          partialCode := s.flush.decFlags.partialCode } } := by
  rcases s.flush_cases with he | he | he
  · rw [he]
  · rw [he]
  · rw [he]
    rfl

theorem State.closeStream_underrun : s.closeStream.decFlags.underrun =
    (s.decFlags.underrun || decide (s.decFlags.lim = true ∧ s.decCount.toNat < s.rootFreq.toNat)) := by
  rw [Bool.decide_and, Bool.decide_eq_true]
  rfl

variable {s}

theorem State.flush_of_leaf (hr : s.dmode = .run) (h1 : s.single = false) (hl : s.isLeaf s.decPtr = true) :
    s.flush = s.emitLeaf :=
  (if_pos ⟨hr, h1⟩).trans (if_pos hl)

/-- Without a leaf to flush, the flush sets PARTIAL where the pointer is inside a multi-leaf tree, and nothing else (R142). -/
theorem State.flush_of_no_leaf (h : s.dmode = .drain ∨ s.single = true ∨ s.isLeaf s.decPtr = false) : s.flush =
    { s with
      decFlags :=
        { s.decFlags with
          partialCode := s.decFlags.partialCode ||
            decide (s.dmode = .run ∧ s.single = false ∧ s.decPtr ≠ s.root) } } := by
  unfold State.flush
  split
  · rename_i hm
    obtain ⟨hr, h1⟩ := hm
    have hl : s.isLeaf s.decPtr = false := by simpa [hr, h1] using h
    rw [if_neg (Bool.eq_false_iff.1 hl)]
    split
    · rename_i hp
      simp [hr, h1, hp]
    · rename_i hp
      simp [hp]
  · rename_i hm
    simp [← and_assoc, hm]

end

/-- Settles O30: what is flushed by the pointer's place, then UNDERRUN by the count after the flush. -/
theorem eosEndsDecode : Obligations.EosEndsDecode := by
  intro s d
  have hframe := s.flush_frame
  have hunder := s.flush.closeStream_underrun
  generalize hf : s.flush = f at hframe hunder
  have he : exec (.eos d) s = .next f.closeStream := hf ▸ rfl
  have hlim : f.decFlags.lim = s.decFlags.lim := congrArg (·.decFlags.lim) hframe
  have hrf : f.rootFreq = s.rootFreq := congrArg (·.rootFreq) hframe
  have hund : f.decFlags.underrun = s.decFlags.underrun := congrArg (·.decFlags.underrun) hframe
  rw [hlim, hrf, hund] at hunder
  have hunderSet : s.decFlags.lim = true ∧ f.decCount.toNat < s.rootFreq.toNat →
      f.closeStream.decFlags.underrun = true := fun h => by rw [hunder, decide_eq_true h, Bool.or_true]
  have hunderKept : ¬(s.decFlags.lim = true ∧ f.decCount.toNat < s.rootFreq.toNat) →
      f.closeStream.decFlags.underrun = s.decFlags.underrun := fun h => by rw [hunder, decide_eq_false h, Bool.or_false]
  refine ⟨_, he, State.complete_completed _, congrArg (·.root) hframe, fun hr h1 hl => ?_, fun h => ?_, hunderSet,
    hunderKept, hlim, ?_⟩
  · rw [State.flush_of_leaf hr h1 hl] at hf
    subst hf
    refine ⟨rfl, rfl, rfl, fun h => ?_, fun h => ?_⟩
    · have hreached : s.atLimit (s.decCount + 1#32) = true := (s.atLimit_iff _).2 h
      rw [State.emitLeaf_of_reached hreached]
      exact ⟨rfl, rfl⟩
    · have hbelow : s.atLimit (s.decCount + 1#32) = false := (State.atLimit_eq_false_iff _).2 h
      rw [State.emitLeaf_of_below hbelow]
      exact ⟨rfl, rfl⟩
  · rw [State.flush_of_no_leaf h] at hf
    subst hf
    refine ⟨rfl, rfl, rfl, rfl, fun hin => ?_, fun hout => ?_⟩
    · exact (congrArg (s.decFlags.partialCode || ·) (decide_eq_true hin)).trans (Bool.or_true _)
    · have hnot : ¬(s.dmode = .run ∧ s.single = false ∧ s.decPtr ≠ s.root) := fun ⟨hr, h1, hp⟩ => by
        simp [hr, h1, hp] at hout
      exact (congrArg (s.decFlags.partialCode || ·) (decide_eq_false hnot)).trans (Bool.or_false _)
  · rw [hframe]
    exact ⟨rfl, rfl, rfl, rfl, .refl s, .refl s, .refl s, .refl s, .refl s⟩

/-! ### CORRUPT is not reached -/

section
variable {s : State} (h : TreeInv s) (hv : s.treeValid = true)
include h hv

/-- A valid tree has at most 511 nodes, so no index of one is NIL. -/
theorem TreeInv.child_ne_nil {i : NodeIdx} (hi : i.toNat < s.nnode.toNat) (hl : s.isLeaf i = false) (v : Bool) :
    s.child i v ≠ nilIdx := fun he => by
  obtain ⟨-, hle, hnn, -⟩ := h.counts hv
  have hlt := h.child_lt hv hi hl v
  rw [he] at hlt
  have hnil : nilIdx.toNat = 511 := rfl
  omega

/-- A bit in RUN mode with the pointer at an inner node of the tree (R144). -/
theorem TreeInv.bitToken_of_inner (hr : s.dmode = .run) (h1 : s.single = false) (hp : s.decPtr.toNat < s.nnode.toNat)
    (hl : s.isLeaf s.decPtr = false) (v : Bool) :
    s.bitToken v = { s.countBit with decPtr := s.child s.decPtr v } := by
  rw [State.bitToken_of_inner hr h1 hl, State.descend_of_child (h.child_ne_nil hv hp hl v)]

/-- A bit in RUN mode with the pointer at a leaf, whose emission does not reach the limit (R144). -/
theorem TreeInv.bitToken_of_leaf (hr : s.dmode = .run) (h1 : s.single = false) (hl : s.isLeaf s.decPtr = true)
    (hlim : s.atLimit (s.decCount + 1#32) = false) (v : Bool) :
    s.bitToken v = { s.emitLeaf.countBit with decPtr := s.child s.root v } := by
  have hchild : s.emitLeaf.child s.emitLeaf.decPtr v ≠ nilIdx := h.child_ne_nil hv (h.root_lt hv) (h.root_inner hv h1) v
  rw [State.bitToken_of_leaf_below hr h1 hl hlim, State.descend_of_child hchild]
  rfl

end

/-- A bit ends a DECODE only as bit 1 on a single tree: elsewhere it is counted in DRAIN, emits, or descends (R144 to R147). -/
theorem DecodeInv.bitToken_goesOn {s : State} {v : Bool} (hdec : DecodeInv s) (htree : TreeInv s) (hc : ControlInv s)
    (hact : s.decActive = true) (hsingle : s.single = true → v = false) :
    SameErr s (s.bitToken v) ∧ (s.bitToken v).decActive = true ∧ (s.bitToken v).pend = s.pend := by
  obtain ⟨-, hvalid, -⟩ := hc
  obtain ⟨hv, -⟩ := hvalid hact
  obtain ⟨hp, -⟩ := hdec hact
  cases hmode : s.dmode with
  | drain =>
    rw [State.bitToken_of_drain hmode]
    exact ⟨.refl s, hact, rfl⟩
  | run =>
    cases h1 : s.single with
    | true =>
      rw [State.bitToken_of_single hmode h1, hsingle h1]
      exact ⟨.refl s, hact, rfl⟩
    | false =>
      cases hl : s.isLeaf s.decPtr with
      | false =>
        rw [htree.bitToken_of_inner hv hmode h1 hp hl]
        exact ⟨.refl s, hact, rfl⟩
      | true =>
        cases hlim : s.atLimit (s.decCount + 1#32) with
        | true =>
          rw [State.bitToken_of_leaf_reached hmode h1 hl hlim]
          exact ⟨.refl s, hact, rfl⟩
        | false =>
          rw [htree.bitToken_of_leaf hv hmode h1 hl hlim]
          exact ⟨.refl s, hact, rfl⟩

/-- Settles O38: with two or more leaves no bit ends the DECODE. -/
theorem corruptIsUnreachable : Obligations.CorruptIsUnreachable := fun s v htree hc hdec hact h1 =>
  ⟨_, exec_bitInstr s v, hdec.bitToken_goesOn htree hc hact fun h => absurd h (Bool.eq_false_iff.1 h1)⟩

end Sys2Proof.Machine
end

section
/-! SUPPORT. O39: codes none of which begins another are read back in one way only, and DECODE reads the bits it is given in
that way. -/

namespace Sys2Proof.Machine

/-! ### Reading codes back -/

section
variable {code : Byte → Code} {coded : Byte → Prop}
  (hfree : ∀ x y, coded x → coded y → code x <+: code y → x = y)
include hfree

/-- Of two ways to begin the same bits with codes, one goes on where the other stops (R129). -/
theorem prefix_or_prefix_of_flatMap_code : ∀ {xs ys : List Byte} {r q : List Bool}, (∀ x ∈ xs, coded x) →
    (∀ y ∈ ys, coded y) → xs.flatMap code ++ r = ys.flatMap code ++ q → xs <+: ys ∨ ys <+: xs
  | [], _, _, _, _, _, _ => Or.inl List.nil_prefix
  | _ :: _, [], _, _, _, _, _ => Or.inr List.nil_prefix
  | x :: xs, y :: ys, r, q, hx, hy, he => by
    obtain ⟨hx0, hxs⟩ := List.forall_mem_cons.1 hx
    obtain ⟨hy0, hys⟩ := List.forall_mem_cons.1 hy
    simp only [List.flatMap_cons, List.append_assoc] at he
    have hxy : x = y := by
      rcases List.prefix_or_prefix_of_prefix (List.prefix_append (code x) _)
        (he ▸ List.prefix_append (code y) _) with h | h
      · exact hfree x y hx0 hy0 h
      · exact (hfree y x hy0 hx0 h).symm
    subst hxy
    rcases prefix_or_prefix_of_flatMap_code hxs hys (List.append_cancel_left he) with h | h
    · exact Or.inl (List.cons_prefix_cons.2 ⟨rfl, h⟩)
    · exact Or.inr (List.cons_prefix_cons.2 ⟨rfl, h⟩)

/-- Codes read until what is left begins with none: whatever symbols the bits begin with are read first. -/
theorem exists_append_of_stuck {xs ys : List Byte} {r rest : List Bool} (hx : ∀ x ∈ xs, coded x)
    (hy : ∀ y ∈ ys, coded y) (hstuck : ∀ x, coded x → ¬ code x <+: rest)
    (he : xs.flatMap code ++ r = ys.flatMap code ++ rest) : ∃ zs, ys = xs ++ zs ∧ r = zs.flatMap code ++ rest := by
  rcases prefix_or_prefix_of_flatMap_code hfree hx hy he with ⟨zs, rfl⟩ | ⟨zs, rfl⟩
  · rw [List.flatMap_append, List.append_assoc] at he
    exact ⟨zs, rfl, List.append_cancel_left he⟩
  · cases zs with
    | nil => exact ⟨[], by simp, by simpa using he⟩
    | cons z zs =>
      simp only [List.flatMap_append, List.append_assoc, List.flatMap_cons] at he
      exact absurd ⟨_, List.append_cancel_left he⟩ (hstuck z (hx z (by simp)))

end

/-! ### The codes of a tree in CODE -/

theorem State.code_ne_nil {s : State} {sym : Byte} (h : s.codeLen sym ≠ 0#8) : s.code sym ≠ [] := fun he =>
  h (BitVec.eq_of_toNat_eq (by simpa [State.code] using congrArg List.length he))

theorem LeafPath.of_bytes {s t : State} {sym : Byte} {c : Code} (h : LeafPath s sym c)
    (hb : ∀ a, 0x2000 ≤ a → a < 0x3000 → t.mem.get a = s.mem.get a) (hr : t.root = s.root) : LeafPath t sym c := by
  obtain ⟨j, hp, hl, hs⟩ := h
  exact ⟨j, hp.of_bytes hb hr, (State.isLeaf_of_bytes hb j).trans hl, (State.nodeSym_of_bytes hb j).trans hs⟩

theorem TreeInv.leafPath_ne_nil {s : State} (h : TreeInv s) (hv : s.treeValid = true) (h1 : s.single = false) {sym : Byte}
    {c : Code} (hc : LeafPath s sym c) : c ≠ [] := by
  rintro rfl
  obtain ⟨j, hp, hl, -⟩ := hc
  have hj : s.root = j := hp.follow
  rw [← hj, h.root_inner hv h1] at hl
  cases hl

/-- Only the empty path leads to the root: every bit descends. -/
theorem TreeInv.root_iff_path_nil {s : State} (h : TreeInv s) (hv : s.treeValid = true) {p : Code} {j : NodeIdx}
    (hp : PathTo s p j) : j = s.root ↔ p = [] := by
  refine ⟨?_, ?_⟩
  · rintro rfl
    have hle := h.path_le hv hp
    exact List.length_eq_zero_iff.1 (by omega)
  · rintro rfl
    exact hp.follow.symm

/-- The root of a single tree is node 0 (R30). -/
theorem TreeInv.root_of_single {s : State} (h : TreeInv s) (hv : s.treeValid = true) (h1 : s.single = true) :
    s.root = 0#9 := by
  obtain ⟨⟨⟨-, -, -, hr, hsingle⟩, -⟩, -⟩ := h.2.2 hv
  have hn := hsingle.1 h1
  exact BitVec.eq_of_toNat_eq (by rw [hr, hn]; rfl)

/-- The state has a tree, and CODE holds its codes: the paths to the leaves, or the one code "0" (R125, R126, R129). -/
structure CodesTree (d : State) : Prop where
  tree : TreeInv d
  valid : d.treeValid = true
  code_of_path : d.single = false → ∀ {p j}, PathTo d p j → d.isLeaf j = true →
    d.codeLen (d.nodeSym j) ≠ 0#8 ∧ d.code (d.nodeSym j) = p
  path_of_code : d.single = false → ∀ {sym}, d.codeLen sym ≠ 0#8 → LeafPath d sym (d.code sym)
  root_coded : d.single = true → d.codeLen (d.nodeSym d.root) ≠ 0#8
  single_code : d.single = true → ∀ {sym}, d.codeLen sym ≠ 0#8 → d.code sym = [false]
  prefix_free : ∀ x y, d.codeLen x ≠ 0#8 → d.codeLen y ≠ 0#8 → d.code x <+: d.code y → x = y

/-- DERIVE stores the codes of the tree it finds. -/
theorem codesTree_derived {b : State} (hwf : b.mem.wf = true) (h : TreeInv b) (hv : b.treeValid = true) :
    CodesTree b.derived := by
  have hb : ∀ a, 0x2000 ≤ a → a < 0x3000 → b.derived.mem.get a = b.mem.get a := fun a _ ha =>
    State.get_storeCodes_of_lt hwf (by omega)
  have hb' : ∀ a, 0x2000 ≤ a → a < 0x3000 → b.mem.get a = b.derived.mem.get a := fun a h1 h2 => (hb a h1 h2).symm
  have hderive := exec_derive_of_tree hv
  refine { tree := TreeInv.exec hwf h hderive, valid := hv, code_of_path := fun h1 p j hp hl => ?_,
           path_of_code := fun h1 sym hsym => ?_, root_coded := fun h1 => ?_, single_code := fun h1 sym hsym => ?_,
           prefix_free := fun x y hx hy hxy => ?_ }
  · have hleaf : LeafPath b (b.derived.nodeSym j) p := LeafPath.of_bytes ⟨j, hp, hl, rfl⟩ hb' rfl
    obtain ⟨-, hle, -⟩ := h.counts hv
    have hlen := h.leafPath_length_lt hv hleaf
    have H := h.holdsCode_of_leafPath hv hwf h1 hleaf
    exact ⟨fun h0 => h.leafPath_ne_nil hv h1 hleaf ((H.codeLen_eq_zero_iff (by omega)).1 h0), H.code_eq (by omega)⟩
  · exact (h.leafPath_of_codeLen_ne_zero hv hwf h1 hsym).of_bytes hb rfl
  · have hroot : b.derived.nodeSym b.derived.root = b.symAt 0 :=
      (State.nodeSym_of_bytes hb _).trans (congrArg b.nodeSym (h.root_of_single hv h1))
    have H := State.derived_holdsCode_of_single hwf h1 (b.symAt 0)
    rw [if_pos rfl] at H
    rw [hroot, H.codeLen_eq]
    decide
  · have H := State.derived_holdsCode_of_single hwf h1 sym
    split at H
    · exact H.code_eq (by decide)
    · exact absurd H.codeLen_eq hsym
  · by_contra hne
    obtain ⟨t, ht, hpre⟩ := codesAreBeginningFree b x y hwf h hv hne
    rw [hderive] at ht
    cases ht
    exact hpre hx hy hxy

/-- A path to an inner node begins with no code: that would be the path to a leaf on the way. -/
theorem CodesTree.stuck_of_inner {d : State} (C : CodesTree d) (h1 : d.single = false) {p : Code} {j : NodeIdx}
    (hp : PathTo d p j) (hl : d.isLeaf j = false) {sym : Byte} (hsym : d.codeLen sym ≠ 0#8) : ¬ d.code sym <+: p := by
  intro hpre
  obtain ⟨i, hi, hli, -⟩ := C.path_of_code h1 hsym
  have he := hi.eq_of_prefix hli hp hpre
  rw [← hi.follow, he, hp.follow, hl] at hli
  cases hli

/-! ### What a DECODE has emitted -/

/-- The DECODE started over `d` has emitted and counted `out`; with LIM = 1 not more than the limit (R141). -/
structure Emitted (d : State) (out : List Byte) (s : State) : Prop where
  symOut : s.symOut = d.symOut ++ out
  coded : ∀ sym ∈ out, d.codeLen sym ≠ 0#8
  count : s.decCount = BitVec.ofNat 32 out.length
  limited : s.decFlags.lim = true → out.length ≤ s.rootFreq.toNat

theorem Emitted.of_same {d s t : State} {out : List Byte} (h : Emitted d out s) (hs : t.symOut = s.symOut)
    (hc : t.decCount = s.decCount) (hf : t.rootFreq = s.rootFreq) (hl : t.decFlags.lim = s.decFlags.lim) :
    Emitted d out t :=
  ⟨hs.trans h.symOut, h.coded, hc.trans h.count, fun hlim => hf ▸ h.limited (hl ▸ hlim)⟩

theorem Emitted.decCount_toNat {d s : State} {out : List Byte} (h : Emitted d out s) (hl : s.decFlags.lim = true) :
    s.decCount.toNat = out.length := by
  have hle := h.limited hl
  have hlt := s.rootFreq.isLt
  rw [h.count]
  exact Nat.mod_eq_of_lt (by omega)

theorem Emitted.emitLeaf {d s : State} {out : List Byte} (h : Emitted d out s) (hdec : Decoding s) (hr : s.dmode = .run)
    (hsym : d.codeLen (s.nodeSym s.decPtr) ≠ 0#8) : Emitted d (out ++ [s.nodeSym s.decPtr]) s.emitLeaf where
  symOut := by rw [State.emitLeaf_symOut, h.symOut, List.append_assoc]
  coded := List.forall_mem_append.2 ⟨h.coded, List.forall_mem_singleton.2 hsym⟩
  count := by rw [State.emitLeaf_decCount, h.count, List.length_append, BitVec.ofNat_add]; rfl
  limited := fun hl => by
    obtain ⟨-, -, -, hlt, -⟩ := hdec
    have hcount := h.decCount_toNat hl
    have := hlt hl hr
    rw [List.length_append, List.length_singleton]
    show out.length + 1 ≤ s.rootFreq.toNat
    omega

/-! ### A bit of a DECODE in progress -/

/-- A DECODE over the tree of `d`, with this LIM, is in progress. -/
structure RunsOver (d : State) (lim : Bool) (s : State) : Prop where
  tree : TreeInv s
  control : ControlInv s
  decoder : DecodeInv s
  active : s.decActive = true
  mem : s.mem = d.mem
  root : s.root = d.root
  single : s.single = d.single
  rootFreq : s.rootFreq = d.rootFreq
  err : SameErr d s
  lim_eq : s.decFlags.lim = lim
  not_partial : s.decFlags.partialCode = false

/-- `out` has been emitted, the bits since lead to the pointer, and `bs` are the bits left of `total`. In DRAIN the pointer
says nothing of the bits since. -/
def StandsAt (d : State) (total bs : List Bool) (s : State) : Prop :=
  ∃ out p, Emitted d out s ∧ total = out.flatMap d.code ++ (p ++ bs) ∧ (s.dmode = .run → PathTo d p s.decPtr)

theorem BitDone.flags {s t : State} {v : Bool} (h : BitDone s v t) :
    t.decFlags.lim = s.decFlags.lim ∧ t.decFlags.partialCode = s.decFlags.partialCode := by
  cases h with
  | drained => exact ⟨rfl, rfl⟩
  | refused => exact ⟨rfl, rfl⟩
  | single => exact ⟨rfl, rfl⟩
  | reached => exact ⟨rfl, rfl⟩
  | lost _ _ hu => cases hu <;> exact ⟨rfl, rfl⟩
  | descended _ _ hu => cases hu <;> exact ⟨rfl, rfl⟩

section
variable {d s : State} {lim v : Bool} {total bs : List Bool} (C : CodesTree d) (h : RunsOver d lim s)
  (hsingle : d.single = true → v = false)
include h

theorem RunsOver.treeValid : s.treeValid = true := by
  obtain ⟨-, hact, -⟩ := h.control
  exact (hact h.active).1

theorem RunsOver.decoding : Decoding s := h.decoder h.active

theorem RunsOver.isLeaf (i : NodeIdx) : s.isLeaf i = d.isLeaf i := State.isLeaf_congr h.mem i

theorem RunsOver.nodeSym (i : NodeIdx) : s.nodeSym i = d.nodeSym i := State.nodeSym_congr h.mem i

theorem RunsOver.child (i : NodeIdx) (v : Bool) : s.child i v = d.child i v := State.child_congr h.mem i v

include hsingle in
theorem RunsOver.bit : RunsOver d lim (s.bitToken v) := by
  have hdone := s.bitToken_done v
  have hframe := hdone.eq_withRun
  obtain ⟨hlim, hpart⟩ := hdone.flags
  obtain ⟨herr, hact, -⟩ := h.decoder.bitToken_goesOn h.tree h.control h.active fun h1 => hsingle (h.single ▸ h1)
  obtain ⟨h1, h2, h3, h4⟩ := h.err
  obtain ⟨h1', h2', h3', h4'⟩ := herr
  exact {
    tree := hframe ▸ h.tree
    control := h.control.bitDone hdone
    decoder := DecodeInv.bitToken h.decoder h.tree h.control v
    active := hact
    mem := (congrArg State.mem hframe).trans h.mem
    root := (congrArg State.root hframe).trans h.root
    single := (congrArg State.single hframe).trans h.single
    rootFreq := (congrArg State.rootFreq hframe).trans h.rootFreq
    err := ⟨h1'.trans h1, h2'.trans h2, h3'.trans h3, h4'.trans h4⟩
    lim_eq := hlim.trans h.lim_eq
    not_partial := hpart.trans h.not_partial }

include C

/-- In a single tree no bit is left over since the last emission. -/
theorem RunsOver.path_of_single (h1 : d.single = true) {p : Code} (hp : PathTo d p s.decPtr) : p = [] := by
  obtain ⟨-, hptr, -⟩ := h.decoding
  exact (C.tree.root_iff_path_nil C.valid hp).1 ((hptr (h.single.trans h1)).trans h.root)

/-- A leaf the pointer stands at has the bits since the last emission as its code. -/
theorem RunsOver.code_of_leaf (h1 : d.single = false) (hl : s.isLeaf s.decPtr = true) {p : Code}
    (hp : PathTo d p s.decPtr) : d.codeLen (s.nodeSym s.decPtr) ≠ 0#8 ∧ d.code (s.nodeSym s.decPtr) = p := by
  rw [h.nodeSym]
  exact C.code_of_path h1 hp (h.isLeaf _ ▸ hl)

/-- On a single tree the bit is the code of the one symbol, which is emitted (R146). -/
theorem RunsOver.bit_standsAt_single (hr : s.dmode = .run) (h1 : d.single = true)
    (hat : StandsAt d total (false :: bs) s) : StandsAt d total bs (s.bitToken false) := by
  obtain ⟨out, p, hout, rfl, hpath⟩ := hat
  obtain rfl := h.path_of_single C h1 (hpath hr)
  obtain ⟨-, hptr, -⟩ := h.decoding
  have hsym : d.codeLen (s.nodeSym s.decPtr) ≠ 0#8 := by
    rw [hptr (h.single.trans h1), h.nodeSym, h.root]
    exact C.root_coded h1
  have hcode : d.code (s.countBit.nodeSym s.decPtr) = [false] := C.single_code h1 hsym
  have hcount : Emitted d out s.countBit := hout.of_same rfl rfl rfl rfl
  have hroot : PathTo d [] s.root := h.root ▸ .root
  rw [State.bitToken_of_single hr (h.single.trans h1)]
  exact ⟨_, [], hcount.emitLeaf h.decoding hr hsym, by simp [hcode], fun _ => hroot⟩

/-- On a multi-leaf tree a bit goes on along the path, or ends the code of the leaf the pointer stands at and begins the next
path (R144). -/
theorem RunsOver.bit_standsAt_multi (hr : s.dmode = .run) (h1 : d.single = false)
    (hat : StandsAt d total (v :: bs) s) : StandsAt d total bs (s.bitToken v) := by
  obtain ⟨out, p, hout, rfl, hpath⟩ := hat
  have hp := hpath hr
  have h1' := h.single.trans h1
  have hdec := h.decoding
  cases hl : s.isLeaf s.decPtr with
  | false =>
    have hdown : PathTo d (p ++ [v]) (s.child s.decPtr v) := h.child s.decPtr v ▸ hp.down (h.isLeaf _ ▸ hl) v
    rw [h.tree.bitToken_of_inner h.treeValid hr h1' hdec.1 hl]
    exact ⟨out, p ++ [v], hout.of_same rfl rfl rfl rfl, by simp, fun _ => hdown⟩
  | true =>
    obtain ⟨hsym, hcode⟩ := h.code_of_leaf C h1 hl hp
    have hem := hout.emitLeaf hdec hr hsym
    cases hlim : s.atLimit (s.decCount + 1#32) with
    | true =>
      have hdrain : s.emitLeaf.countBit.dmode = .drain := if_pos hlim
      rw [State.bitToken_of_leaf_reached hr h1' hl hlim]
      exact ⟨_, [v], hem.of_same rfl rfl rfl rfl, by simp [hcode],
        fun hrun => absurd hdrain (State.dmode_run_iff _ |>.1 hrun)⟩
    | false =>
      have hdown : PathTo d [v] (s.child s.root v) := by
        rw [h.child, h.root]
        exact PathTo.root.down (C.tree.root_inner C.valid h1) v
      rw [h.tree.bitToken_of_leaf h.treeValid hr h1' hl hlim]
      exact ⟨_, [v], hem.of_same rfl rfl rfl rfl, by simp [hcode], fun _ => hdown⟩

include hsingle

/-- A bit moves from the bits left to the bits read; in DRAIN it is read and discarded (R145). -/
theorem RunsOver.bit_standsAt (hat : StandsAt d total (v :: bs) s) : StandsAt d total bs (s.bitToken v) := by
  cases hmode : s.dmode with
  | drain =>
    obtain ⟨out, p, hout, rfl, -⟩ := hat
    rw [State.bitToken_of_drain hmode]
    exact ⟨out, p ++ [v], hout.of_same rfl rfl rfl rfl, by simp,
      fun hr => absurd hmode (State.dmode_run_iff _ |>.1 hr)⟩
  | run =>
    cases h1 : d.single with
    | true =>
      obtain rfl := hsingle h1
      exact h.bit_standsAt_single C hmode h1 hat
    | false => exact h.bit_standsAt_multi C hmode h1 hat

end

end Sys2Proof.Machine
end

section
/-! SUPPORT. O39: how a DECODE that meets EOS ends, and the run from its start step to that end. -/

namespace Sys2Proof.Machine

/-! ### The end of a DECODE -/

/-- How a DECODE over the tree of `d` has ended that read `total`: it emitted `out` and used no bit of `rest`. Unless it
ended in DRAIN, `rest` begins with no code, and PARTIAL says whether a bit is left. -/
structure EndedWith (d : State) (lim : Bool) (total : List Bool) (out : List Byte) (rest : List Bool) (t : State) :
    Prop where
  emitted : Emitted d out t
  bits : total = out.flatMap d.code ++ rest
  drain : DrainInv t
  reached : t.dmode = .drain → t.decFlags.lim = true ∧ t.decCount = t.rootFreq
  below : t.decFlags.lim = true → t.dmode = .run → t.decCount.toNat < t.rootFreq.toNat
  rootFreq : t.rootFreq = d.rootFreq
  err : SameErr d t
  lim_eq : t.decFlags.lim = lim
  stuck : t.dmode = .run → ∀ sym, d.codeLen sym ≠ 0#8 → ¬ d.code sym <+: rest
  partial_iff : t.dmode = .run → (t.decFlags.partialCode = true ↔ rest ≠ [])

theorem not_code_prefix_nil {d : State} (sym : Byte) (h : d.codeLen sym ≠ 0#8) : ¬ d.code sym <+: [] := fun hpre =>
  State.code_ne_nil h (List.prefix_nil.1 hpre)

section
variable {d s : State} {lim : Bool} {total : List Bool} (C : CodesTree d) (h : RunsOver d lim s)
include C h

/-- A leaf the pointer stands at is flushed, and no bit is left (R142). -/
theorem RunsOver.flush_leaf (hr : s.dmode = .run) (h1 : d.single = false) (hl : s.isLeaf s.decPtr = true)
    {out : List Byte} {p : Code} (hout : Emitted d out s) (hp : PathTo d p s.decPtr) :
    EndedWith d lim (out.flatMap d.code ++ p) (out ++ [s.nodeSym s.decPtr]) [] s.flush := by
  obtain ⟨hsym, hcode⟩ := h.code_of_leaf C h1 hl hp
  obtain ⟨-, -, hdrain⟩ := h.control
  obtain ⟨-, -, -, hbelow, hreached⟩ := h.decoding.emitLeaf hr (h.tree.root_lt h.treeValid)
  rw [State.flush_of_leaf hr (h.single.trans h1) hl]
  exact {
    emitted := hout.emitLeaf h.decoding hr hsym
    bits := by simp [hcode]
    drain := DrainInv.emitLeaf hdrain
    reached := fun hd => ⟨(hreached hd).1, (hreached hd).2.1⟩
    below := hbelow
    rootFreq := h.rootFreq
    err := h.err
    lim_eq := h.lim_eq
    stuck := fun _ => not_code_prefix_nil
    partial_iff := fun _ => by simp [h.not_partial] }

/-- With no leaf to flush, the bits since the last emission begin with no code. -/
theorem RunsOver.stuck_of_no_leaf (hcase : d.single = true ∨ s.isLeaf s.decPtr = false) {p : Code}
    (hp : PathTo d p s.decPtr) (sym : Byte) (hsym : d.codeLen sym ≠ 0#8) : ¬ d.code sym <+: p := by
  cases h1 : d.single with
  | true =>
    rw [h.path_of_single C h1 hp]
    exact not_code_prefix_nil sym hsym
  | false =>
    have hl : d.isLeaf s.decPtr = false := by simpa [h1, h.isLeaf] using hcase
    exact C.stuck_of_inner h1 hp hl hsym

/-- The pointer is inside a multi-leaf tree exactly where bits are left since the last emission. -/
theorem RunsOver.inside_iff {p : Code} (hp : PathTo d p s.decPtr) : s.single = false ∧ s.decPtr ≠ s.root ↔ p ≠ [] := by
  rw [h.single, h.root, ne_eq, C.tree.root_iff_path_nil C.valid hp]
  refine ⟨And.right, fun hne => ⟨?_, hne⟩⟩
  by_contra h1
  exact hne (h.path_of_single C (eq_true_of_ne_false h1) hp)

/-- Without a leaf to flush nothing is emitted, and PARTIAL is set where bits are left (R142). -/
theorem RunsOver.flush_no_leaf (hcase : s.dmode = .drain ∨ d.single = true ∨ s.isLeaf s.decPtr = false)
    {out : List Byte} {p : Code} (hout : Emitted d out s) (hpath : s.dmode = .run → PathTo d p s.decPtr) :
    EndedWith d lim (out.flatMap d.code ++ p) out p s.flush := by
  have hflush := State.flush_of_no_leaf (h.single.symm ▸ hcase)
  rw [h.not_partial, Bool.false_or] at hflush
  obtain ⟨-, -, hdrain⟩ := h.control
  obtain ⟨-, -, -, hbelow, hreached⟩ := h.decoding
  have hpartial : s.dmode = .run →
      (decide (s.dmode = .run ∧ s.single = false ∧ s.decPtr ≠ s.root) = true ↔ p ≠ []) := fun hr => by
    rw [decide_eq_true_iff, and_iff_right hr, h.inside_iff C (hpath hr)]
  rw [hflush]
  exact {
    emitted := hout.of_same rfl rfl rfl rfl
    bits := rfl
    drain := hdrain
    reached := fun hd => ⟨(hreached hd).1, (hreached hd).2.1⟩
    below := hbelow
    rootFreq := h.rootFreq
    err := h.err
    lim_eq := h.lim_eq
    stuck := fun hr => h.stuck_of_no_leaf C (hcase.resolve_left (s.dmode_run_iff.1 hr)) (hpath hr)
    partial_iff := hpartial }

theorem RunsOver.flush_ended (hat : StandsAt d total [] s) : ∃ out rest, EndedWith d lim total out rest s.flush := by
  obtain ⟨out, p, hout, rfl, hpath⟩ := hat
  rw [List.append_nil]
  by_cases hcase : s.dmode = .drain ∨ d.single = true ∨ s.isLeaf s.decPtr = false
  · exact ⟨_, _, h.flush_no_leaf C hcase hout hpath⟩
  · simp only [not_or, Bool.not_eq_true, Bool.not_eq_false] at hcase
    obtain ⟨hmode, h1, hl⟩ := hcase
    have hr := s.dmode_run_iff.2 hmode
    exact ⟨_, _, h.flush_leaf C hr h1 hl hout (hpath hr)⟩

end

/-- What EOS does after the flush changes nothing an ended DECODE is described by. -/
theorem EndedWith.closeStream {d t : State} {lim : Bool} {total : List Bool} {out : List Byte} {rest : List Bool}
    (h : EndedWith d lim total out rest t) : EndedWith d lim total out rest t.closeStream where
  emitted := h.emitted.of_same rfl rfl rfl rfl
  bits := h.bits
  drain := h.drain
  reached := h.reached
  below := h.below
  rootFreq := h.rootFreq
  err := h.err
  lim_eq := h.lim_eq
  stuck := h.stuck
  partial_iff := h.partial_iff

/-! ### The run -/

section
variable {M : Host.Core} {s t : M.State}

theorem run_succ (h : M.step s = .next t) (n : Nat) : M.run (n + 1) s = M.run n t := by rw [Host.Core.run, h]

/-- A run that went well for `m` steps goes on from the state it reached. -/
theorem run_add {m : Nat} (h : M.run m s = .next t) (n : Nat) : M.run (m + n) s = M.run n t := by
  induction m generalizing s with
  | zero =>
    cases h
    rw [Nat.zero_add]
  | succ m ih =>
    rw [Nat.add_right_comm]
    cases hs : M.step s with
    | next u =>
      rw [run_succ hs] at h ⊢
      exact ih h
    | fault r => simp [Host.Core.run, hs] at h
    | refused r => simp [Host.Core.run, hs] at h

end

theorem run_core_succ {s t : State} (h : step s = .next t) (n : Nat) :
    Host.Core.run core (n + 1) s = Host.Core.run core n t := run_succ (M := core) h n

/-- `s` with these tokens in BIT_IN and these turns to come. -/
def State.withTokens (s : State) (tokens : List Token) (turns : List Agent) : State :=
  { s with bitIn := tokens, turns := turns }

/-- The tokens of bits are decoded as the bits (R80, R81). -/
theorem decodeTok_bitToken (v : Bool) : decodeTok (bitToken v) = bitInstr v := by cases v <;> decide

section
variable {d s : State} {lim : Bool} {total bs : List Bool} {tokens : List Token} {turns : List Agent}

/-- The engine's turn of an active DECODE takes the oldest token and runs it (R141). -/
theorem RunsOver.step_token (h : RunsOver d lim s) {t : Token} (hbits : s.bitIn = t :: tokens)
    (hturns : s.turns = .engine :: turns) : step s = exec (decodeTok t) (s.withTokens tokens turns) := by
  obtain ⟨-, hpend, -⟩ := h.control
  obtain ⟨-, ⟨hp, -⟩ | ⟨hp, -⟩⟩ := hpend h.active
  · exact stepRunsDecoded.2.1 s turns _ t tokens hturns hp h.active hbits
  · exact stepRunsDecoded.2.1 s turns _ t tokens hturns hp h.active hbits

theorem RunsOver.withTokens (h : RunsOver d lim s) : RunsOver d lim (s.withTokens tokens turns) :=
  ⟨h.tree, h.control, h.decoder, h.active, h.mem, h.root, h.single, h.rootFreq, h.err, h.lim_eq, h.not_partial⟩

theorem StandsAt.withTokens (h : StandsAt d total bs s) : StandsAt d total bs (s.withTokens tokens turns) := by
  obtain ⟨out, p, hout, hbits, hpath⟩ := h
  exact ⟨out, p, hout.of_same rfl rfl rfl rfl, hbits, hpath⟩

end

section
variable {d : State} {lim : Bool} {total : List Bool} (C : CodesTree d)
include C

/-- The engine's turns take and run one bit each. -/
theorem RunsOver.run_bits {left : List Token} {later : List Agent} : ∀ {bs : List Bool} {s : State}, RunsOver d lim s →
    StandsAt d total bs s → (d.single = true → ∀ v ∈ bs, v = false) → s.bitIn = bs.map bitToken ++ left →
    s.turns = List.replicate bs.length .engine ++ later →
    ∃ t, Host.Core.run core bs.length s = .next t ∧ RunsOver d lim t ∧ StandsAt d total [] t ∧ t.bitIn = left ∧
      t.turns = later
  | [], s, h, hat, _, hbits, hturns => ⟨s, rfl, h, hat, hbits, hturns⟩
  | v :: bs, s, h, hat, hzero, hbits, hturns => by
    have hstep := h.step_token hbits hturns
    rw [decodeTok_bitToken, exec_bitInstr] at hstep
    have hv : d.single = true → v = false := fun h1 => hzero h1 v List.mem_cons_self
    have hframe := (State.bitToken_done (s.withTokens (bs.map bitToken ++ left)
      (List.replicate bs.length .engine ++ later)) v).eq_withRun
    obtain ⟨t, ht, hrest⟩ := RunsOver.run_bits (h.withTokens.bit hv) (h.withTokens.bit_standsAt C hv hat.withTokens)
      (fun h1 x hx => hzero h1 x (List.mem_cons_of_mem v hx)) (congrArg State.bitIn hframe)
      (congrArg State.turns hframe)
    exact ⟨t, (run_core_succ hstep _).trans ht, hrest⟩

/-- EOS after the last bit ends the DECODE and takes nothing behind it (R142, R149). -/
theorem RunsOver.step_eos {s : State} (h : RunsOver d lim s) (hat : StandsAt d total [] s) {left : List Token}
    {later : List Agent} (hbits : s.bitIn = 4#3 :: left) (hturns : s.turns = .engine :: later) :
    ∃ t out rest, step s = .next t ∧ EndedWith d lim total out rest t ∧ t.busy = false ∧ t.bitIn = left := by
  obtain ⟨out, rest, hend⟩ := h.withTokens.flush_ended C (hat.withTokens (tokens := left) (turns := later))
  exact ⟨_, out, rest, h.step_token hbits hturns, hend.closeStream, rfl, congrArg State.bitIn (State.flush_frame _)⟩

end

/-! ### From the start to EOS -/

/-- The command word of DECODE and of DECODE.LIM (R75). -/
def startWord (lim : Bool) : Word := if lim then 0x15#32 else 0x5#32

theorem exec_startWord (lim : Bool) (s : State) : exec (decodeCmd (startWord lim)) s = .next (s.decodeStart lim) := by
  cases lim <;> rfl

/-- `d` with DECODE or DECODE.LIM issued, over these tokens and turns. -/
def State.issueDecode (d : State) (lim : Bool) (tokens : List Token) (turns : List Agent) : State :=
  { d with cmd := startWord lim, pend := some (startWord lim), bitIn := tokens, turns := turns }

section
variable {d : State} (lim : Bool) (tokens : List Token) (turns : List Agent)

theorem State.step_issueDecode (hidle : d.decActive = false) :
    step (d.issueDecode lim tokens (.engine :: turns)) = .next ((d.issueDecode lim tokens turns).decodeStart lim) :=
  (stepRunsDecoded.1 (d.issueDecode lim tokens (.engine :: turns)) turns (startWord lim) rfl rfl hidle).trans
    (exec_startWord lim _)

variable (C : CodesTree d)
include C

/-- After the start step the DECODE is in progress, with every bit still to come (R139). -/
theorem CodesTree.decodeStart (total : List Bool) : ∃ s, (d.issueDecode lim tokens turns).decodeStart lim = s ∧
    RunsOver d lim s ∧ StandsAt d total total s ∧ s.bitIn = tokens ∧ s.turns = turns := by
  have hdec := DecodeInv.decodeStart (s := d.issueDecode lim tokens turns) C.tree lim
  have hstart : (d.issueDecode lim tokens turns).decodeStart lim = _ := if_pos C.valid
  have hpend : some (startWord lim) = some 0x5#32 ∧ lim = false ∨ some (startWord lim) = some 0x15#32 ∧ lim = true := by
    cases lim <;> decide
  rw [hstart] at hdec
  refine ⟨_, hstart, ⟨C.tree, ⟨fun _ => C.valid, fun _ => ⟨C.valid, hpend⟩, Iff.intro nofun nofun⟩, hdec, rfl, rfl, rfl,
    rfl, rfl, .refl d, rfl, rfl⟩, ⟨[], [], ⟨(List.append_nil _).symm, nofun, rfl, fun _ => Nat.zero_le _⟩, rfl,
    fun _ => .root⟩, rfl, rfl⟩

/-- A DECODE over bits and EOS runs from its start to its end. -/
theorem CodesTree.run_decode (hidle : d.decActive = false) {total : List Bool}
    (hzero : d.single = true → ∀ v ∈ total, v = false) (left : List Token) (later : List Agent) :
    ∃ t out rest, Host.Core.run core (total.length + 2) (d.issueDecode lim (total.map bitToken ++ 4#3 :: left)
        (List.replicate (total.length + 2) .engine ++ later)) = .next t ∧
      EndedWith d lim total out rest t ∧ t.busy = false ∧ t.bitIn = left := by
  have hturns : List.replicate (total.length + 2) Agent.engine ++ later =
      .engine :: (List.replicate total.length .engine ++ .engine :: later) := by
    rw [List.replicate_succ, List.replicate_succ', List.cons_append, List.append_assoc]
    rfl
  have hstart := State.step_issueDecode lim (total.map bitToken ++ 4#3 :: left)
    (List.replicate total.length .engine ++ .engine :: later) hidle
  obtain ⟨s, hs, hrun, hat, hbits, hturns'⟩ := C.decodeStart lim (total.map bitToken ++ 4#3 :: left)
    (List.replicate total.length .engine ++ .engine :: later) total
  obtain ⟨r, hr, hrun', hat', hbits', hlast⟩ := hrun.run_bits C hat hzero hbits hturns'
  obtain ⟨t, out, rest, heos, hend⟩ := hrun'.step_eos C hat' hbits' hlast
  refine ⟨t, out, rest, ?_, hend⟩
  rw [hs] at hstart
  rw [hturns]
  calc Host.Core.run core (total.length + 2) _
    _ = Host.Core.run core (total.length + 1) s := run_core_succ hstart _
    _ = Host.Core.run core 1 r := run_add hr 1
    _ = .next t := run_core_succ heos 0

end

end Sys2Proof.Machine
end

section
/-! SUPPORT. O39: the tree and the codes of a byte sequence, and what a DECODE over the sequence's codes emits. -/

namespace Sys2Proof.Machine

/-! ### The codes of a byte sequence -/

/-- Every byte of the sequence is one of the symbols the frequencies are summed over (R110). -/
theorem State.freqSum_of_counts {u : State} {input : List Byte} (h : ∀ sym, (u.freq sym).toNat = input.count sym) :
    u.freqSum = input.length := by
  have hnodup : allSymbols.Nodup := List.Nodup.map_on (fun a ha b hb he => by
    simpa [Nat.mod_eq_of_lt (List.mem_range.1 ha), Nat.mod_eq_of_lt (List.mem_range.1 hb)] using congrArg BitVec.toNat he)
    List.nodup_range
  calc u.freqSum
    _ = (allSymbols.map (fun sym => (input : Multiset Byte).count sym)).sum := by
      simp only [State.freqSum, h, Multiset.coe_count]
    _ = ∑ sym ∈ allSymbols.toFinset, (input : Multiset Byte).count sym := (List.sum_toFinset _ hnodup).symm
    _ = input.length := Multiset.sum_count_eq_card fun sym _ => List.mem_toFinset.2 (mem_allSymbols sym)

/-- Each leaf's symbol has a code. -/
theorem CodesTree.leaf_coded {d : State} (C : CodesTree d) {j : Nat} (hj : j < d.nsym.toNat) :
    d.codeLen (d.symAt j) ≠ 0#8 := by
  cases h1 : d.single with
  | true =>
    obtain ⟨⟨⟨-, -, -, -, hone⟩, -⟩, -⟩ := C.tree.2.2 C.valid
    have hj0 : j = 0 := by
      have := hone.1 h1
      omega
    have hroot := C.root_coded h1
    rw [C.tree.root_of_single C.valid h1] at hroot
    rwa [hj0]
  | false =>
    obtain ⟨c, hp, -⟩ := C.tree.exists_leafPath C.valid hj
    obtain ⟨-, ⟨hleaf, -⟩, -⟩ := C.tree.2.2 C.valid
    exact (C.code_of_path h1 hp (hleaf j hj).1).1

/-- No command is in progress in `d`, its tree is that of the counts of `input`, and CODE holds the codes. -/
structure CodesInput (d : State) (input : List Byte) : Prop where
  codes : CodesTree d
  idle : d.decActive = false
  limit : d.rootFreq.toNat = input.length
  coded : ∀ sym ∈ input, d.codeLen sym ≠ 0#8

/-- What BUILD and DERIVE leave, where FREQ holds the counts. -/
theorem codesInput_of_counts {u b d : State} {input : List Byte} (hwf : u.mem.wf = true) (hne : input ≠ [])
    (hlen : input.length < 2 ^ 32) (hcount : ∀ sym, (u.freq sym).toNat = input.count sym) (hb : exec .build u = .next b)
    (hd : exec .derive b = .next d) : CodesInput d input := by
  have hsum := State.freqSum_of_counts hcount
  have hpresent : ∀ sym ∈ input, sym ∈ u.presentSymbols := fun sym hsym => by
    have hpos : 0 < (u.freq sym).toNat := hcount sym ▸ List.count_pos_iff.2 hsym
    have hfreq : u.freq sym ≠ 0#32 := fun h0 => by simp [h0] at hpos
    exact List.mem_filter.2 ⟨mem_allSymbols sym, by simpa using hfreq⟩
  obtain ⟨x, hx⟩ := List.exists_mem_of_ne_nil _ hne
  have hp : u.presentSymbols ≠ [] := List.ne_nil_of_mem (hpresent x hx)
  have hbuild := exec_build_of_fits hp (by omega)
  rw [hbuild] at hb
  cases hb
  have hwfb : u.writeTree.complete.mem.wf = true := exec_wf hwf hbuild
  have hderive : exec .derive u.writeTree.complete = .next u.writeTree.complete.derived := exec_derive_of_tree rfl
  rw [hderive] at hd
  cases hd
  have htree : TreeInv u.writeTree.complete := treeInv_writeTree hwf hp (by rw [u.totalFreq_eq_freqSum]; omega)
  have C := codesTree_derived hwfb htree rfl
  refine ⟨C, rfl, (State.writeTree_rootFreq_toNat hwf hp (by omega)).trans hsum, fun sym hsym => ?_⟩
  obtain ⟨j, hj, rfl⟩ := List.getElem_of_mem (hpresent sym hsym)
  obtain ⟨t, ht, -, hsymAt, -⟩ := buildPlacesLeaves u j hj hwf (by omega)
  rw [hbuild] at ht
  cases ht
  have hle := presentSymbols_length_le u
  have hnsym : u.writeTree.nsym.toNat = u.presentSymbols.length := nodeIdx_toNat (by omega)
  have hsame : u.writeTree.complete.derived.symAt j = u.presentSymbols[j] :=
    (State.nodeSym_of_bytes (fun a _ ha => State.get_storeCodes_of_lt hwfb (by omega)) _).trans hsymAt
  rw [← hsame]
  exact C.leaf_coded (hj.trans_eq hnsym.symm)

/-! ### What the DECODE emits -/

/-- With LIM = 0 no limit is reached (R140). -/
theorem EndedWith.dmode_run {d t : State} {out : List Byte} {total rest : List Bool}
    (E : EndedWith d false total out rest t) : t.dmode = .run :=
  t.dmode_run_iff.2 fun hd => by
    obtain ⟨hlim, -⟩ := E.reached hd
    rw [E.lim_eq] at hlim
    cases hlim

section
variable {d t : State} {input out : List Byte} {total pad rest : List Bool} {lim : Bool} (H : CodesInput d input)
include H

/-- On a single tree the sequence's codes and zero pad bits are zeros. -/
theorem CodesInput.zeros_of_single (h1 : d.single = true) (n : Nat) :
    ∀ v ∈ input.flatMap d.code ++ List.replicate n false, v = false := by
  intro v hv
  rcases List.mem_append.1 hv with hv | hv
  · obtain ⟨sym, hsym, hv⟩ := List.mem_flatMap.1 hv
    rw [H.codes.single_code h1 (H.coded sym hsym)] at hv
    exact List.mem_singleton.1 hv
  · exact List.eq_of_mem_replicate hv

/-- A DECODE that did not end in DRAIN has emitted the sequence, and then the symbols whose codes the pad begins with. -/
theorem CodesInput.exists_phantom (E : EndedWith d lim (input.flatMap d.code ++ pad) out rest t) (hr : t.dmode = .run) :
    ∃ phantom, out = input ++ phantom ∧ pad = phantom.flatMap d.code ++ rest :=
  exists_append_of_stuck H.codes.prefix_free H.coded E.emitted.coded (E.stuck hr) E.bits

/-- With LIM = 1 the sequence alone is emitted, and the limit is reached with its last symbol (R140). -/
theorem CodesInput.out_eq_of_lim (E : EndedWith d true (input.flatMap d.code ++ pad) out rest t) :
    out = input ∧ t.dmode = .drain := by
  have hcount := E.emitted.decCount_toNat E.lim_eq
  have hlimit : t.rootFreq.toNat = input.length := (congrArg BitVec.toNat E.rootFreq).trans H.limit
  cases hmode : t.dmode with
  | run =>
    obtain ⟨phantom, rfl, -⟩ := H.exists_phantom E hmode
    have hbelow := E.below E.lim_eq hmode
    rw [List.length_append] at hcount
    omega
  | drain =>
    obtain ⟨-, hreached⟩ := E.reached hmode
    have hlen : out.length = input.length := by rw [← hcount, hreached, hlimit]
    refine ⟨?_, rfl⟩
    rcases prefix_or_prefix_of_flatMap_code H.codes.prefix_free H.coded E.emitted.coded E.bits with h | h
    · exact (h.eq_of_length hlen.symm).symm
    · exact h.eq_of_length hlen

end

/-- Settles O39: DECODE reads its bits as codes in the one way there is, and B's codes begin them. -/
theorem decodeGivesBackInput : Obligations.DecodeGivesBackInput := by
  intro u b d input pad left later hwf hne hlen hcount hb hd
  have H := codesInput_of_counts hwf hne hlen hcount hb hd
  have hpad : (input.flatMap d.code ++ List.replicate pad false).length + 2 =
      (input.flatMap d.code).length + pad + 2 := by simp
  have hrun := fun lim (n : Nat) => H.codes.run_decode lim H.idle (fun h1 => H.zeros_of_single h1 n) left later
  refine ⟨?_, ?_, ?_⟩
  · obtain ⟨t, out, rest, ht, E, hbusy, hbits⟩ := hrun true pad
    rw [hpad] at ht
    obtain ⟨rfl, hdrain⟩ := H.out_eq_of_lim E
    exact ⟨t, ht, E.emitted.symOut, E.emitted.decCount_toNat E.lim_eq, E.drain.1 hdrain, E.err, hbusy, hbits⟩
  · obtain ⟨t, out, rest, ht, E, hbusy, hbits⟩ := hrun false 0
    obtain ⟨phantom, rfl, hphantom⟩ := H.exists_phantom E E.dmode_run
    have hcodes : ∀ sym ∈ phantom, d.code sym = [] :=
      List.flatMap_eq_nil_iff.1 (List.append_eq_nil_iff.1 hphantom.symm).1
    have hnone : phantom = [] := List.eq_nil_iff_forall_not_mem.2 fun sym hsym =>
      State.code_ne_nil (E.emitted.coded sym (List.mem_append_right _ hsym)) (hcodes sym hsym)
    have hout := E.emitted.symOut
    rw [hnone, List.append_nil] at hout
    rw [List.replicate_zero, List.append_nil] at ht
    exact ⟨t, ht, hout, E.err, hbusy, hbits⟩
  · obtain ⟨t, out, rest, ht, E, hbusy, hbits⟩ := hrun false pad
    rw [hpad] at ht
    obtain ⟨phantom, rfl, hphantom⟩ := H.exists_phantom E E.dmode_run
    refine ⟨t, phantom, rest, ht, hphantom, fun sym hsym => E.emitted.coded sym (List.mem_append_right _ hsym),
      E.stuck E.dmode_run, ?_, ?_, E.partial_iff E.dmode_run, E.err, hbusy, hbits⟩
    · rw [E.emitted.symOut, List.append_assoc]
    · rw [E.emitted.count, List.length_append]

end Sys2Proof.Machine
end

section
/-! SUPPORT. O8, O9, O53: raising a cause (R161), and what a command or token does said at once for every content of the
error registers, so that it raises at most one cause (R168) and does not depend on errors recorded before (R165). -/

namespace Sys2Proof.Machine

/-- Settles O53: `raise` writes the error registers alone. -/
theorem raiseRecordsCause : Obligations.RaiseRecordsCause := fun s c arg =>
  ⟨s.raise_raised c arg, .refl s, .refl s, .refl s, .refl s, .refl s, .refl s, .refl s⟩

/-! ### Runs that do not look at the error registers -/

/-- `s` with ERR, ERR_FIRST, ERR_ARG and INT_PEND.ERR of `o`. -/
def State.withErr (s o : State) : State :=
  { s with err := o.err, errFirst := o.errFirst, errArg := o.errArg, intErr := o.intErr }

/-- What `run` does to `s`, whatever the error registers hold: it leaves one state `u` around them, and either keeps them
or ends by raising one cause, the same one each time. -/
inductive ErrBlind (run : State → Host.Outcome State Fault Refusal) (s : State) : Prop where
  | silent (u : State) (h : ∀ o, run (s.withErr o) = .next (u.withErr o))
  | failed (u : State) (c : Cause) (arg : Word) (hc : c ≠ .badacc)
      (h : ∀ o, run (s.withErr o) = .next ((u.withErr o).fail c arg))

section
variable (s : State)

theorem exec_build_errBlind : ErrBlind (exec .build) s := by
  by_cases hp : s.presentSymbols = []
  · exact .failed s.dropTree .empty s.pendWord nofun fun o => exec_build_of_empty (s := s.withErr o) hp
  · rcases Nat.lt_or_ge 0xFFFFFFFF s.freqSum with hover | hfits
    · exact .failed s.dropTree .overflow s.pendWord nofun fun o => exec_build_of_overflow (s := s.withErr o) hover
    · exact .silent s.writeTree.complete fun o => exec_build_of_fits (s := s.withErr o) hp hfits

/-- The codes DERIVE stores come from NODE, SINGLE and ROOT. -/
theorem State.derived_withErr (o : State) : (s.withErr o).derived = s.derived.withErr o := by
  have hcodes : (s.withErr o).assignedCodes = s.assignedCodes :=
    State.assignedCodes_of_bytes (fun _ _ _ => rfl) rfl rfl
  have hstore : (s.withErr o).storeCodes = s.storeCodes.withErr o := by
    rw [State.storeCodes, hcodes]
    rfl
  rw [State.derived, hstore]
  rfl

theorem exec_derive_errBlind : ErrBlind (exec .derive) s := by
  cases hv : s.treeValid with
  | false => exact .failed s .noTree s.pendWord nofun fun o => exec_derive_of_no_tree (s := s.withErr o) hv
  | true =>
    refine .silent s.derived fun o => ?_
    rw [exec_derive_of_tree (s := s.withErr o) hv, s.derived_withErr]

theorem exec_serialize_errBlind : ErrBlind (exec .serialize) s := by
  cases hv : s.codeValid with
  | false => exact .failed s .noCode s.pendWord nofun fun o => exec_serialize_of_no_codes (s := s.withErr o) hv
  | true => exact .silent (s.emitTbl s.tableText).complete fun o => exec_serialize_of_codes (s := s.withErr o) hv

theorem State.decodeStart_errBlind (lim : Bool) : ErrBlind (fun r => .next (r.decodeStart lim)) s := by
  cases hv : s.treeValid with
  | false =>
    exact .failed s .noTree s.pendWord nofun fun o =>
      congrArg Host.Outcome.next (State.decodeStart_of_no_tree (s := s.withErr o) hv lim)
  | true =>
    exact .silent
      { s with
        decActive := true, decPtr := s.root, decCount := 0#32, decBits := 0#32,
        decFlags := { DecFlags.zero with lim := lim }, dmode := .run }
      fun _ => congrArg Host.Outcome.next (if_pos hv)

theorem State.descend_errBlind (v : Bool) : ErrBlind (fun r => .next (r.descend v)) s := by
  by_cases hchild : s.child s.decPtr v = nilIdx
  · exact .failed s .corrupt s.decBits nofun fun o =>
      congrArg Host.Outcome.next (State.descend_of_nil (s := s.withErr o) hchild)
  · exact .silent { s.countBit with decPtr := s.child s.decPtr v } fun o =>
      congrArg Host.Outcome.next (State.descend_of_child (s := s.withErr o) hchild)

/-- A run that moves on to another one, around the same error registers. -/
theorem ErrBlind.of_eq {run run' : State → Host.Outcome State Fault Refusal} {s u : State} (hu : ErrBlind run' u)
    (h : ∀ o, run (s.withErr o) = run' (u.withErr o)) : ErrBlind run s := by
  cases hu with
  | silent t ht => exact .silent t fun o => (h o).trans (ht o)
  | failed t c arg hc ht => exact .failed t c arg hc fun o => (h o).trans (ht o)

/-- The branches of a bit are taken by DMODE, SINGLE, the pointer's node and the limit (R144 to R147). -/
theorem State.bitToken_errBlind (v : Bool) : ErrBlind (fun r => .next (r.bitToken v)) s := by
  cases hmode : s.dmode with
  | drain =>
    exact .silent s.drainBit fun o => congrArg Host.Outcome.next (State.bitToken_of_drain (s := s.withErr o) hmode v)
  | run =>
    cases h1 : s.single with
    | true =>
      have hbit := fun o => State.bitToken_of_single (s := s.withErr o) hmode h1 v
      cases v with
      | false => exact .silent s.countBit.emitLeaf fun o => congrArg Host.Outcome.next (hbit o)
      | true => exact .failed s .corrupt s.decBits nofun fun o => congrArg Host.Outcome.next (hbit o)
    | false =>
      cases hl : s.isLeaf s.decPtr with
      | false =>
        exact (s.descend_errBlind v).of_eq fun o =>
          congrArg Host.Outcome.next (State.bitToken_of_inner (s := s.withErr o) hmode h1 hl v)
      | true =>
        cases hlim : s.atLimit (s.decCount + 1#32) with
        | true =>
          exact .silent s.emitLeaf.countBit fun o =>
            congrArg Host.Outcome.next (State.bitToken_of_leaf_reached (s := s.withErr o) hmode h1 hl hlim v)
        | false =>
          exact (s.emitLeaf.descend_errBlind v).of_eq fun o =>
            congrArg Host.Outcome.next (State.bitToken_of_leaf_below (s := s.withErr o) hmode h1 hl hlim v)

/-- What the flush does is decided by DMODE, SINGLE, the pointer and its node (R142). -/
theorem State.flush_withErr (o : State) : (s.withErr o).flush = s.flush.withErr o := by
  by_cases h : s.dmode = .drain ∨ s.single = true ∨ s.isLeaf s.decPtr = false
  · rw [State.flush_of_no_leaf h]
    exact State.flush_of_no_leaf (s := s.withErr o) h
  · simp only [not_or, Bool.not_eq_true, Bool.not_eq_false, ← State.dmode_run_iff] at h
    obtain ⟨hr, h1, hl⟩ := h
    rw [State.flush_of_leaf hr h1 hl]
    exact State.flush_of_leaf (s := s.withErr o) hr h1 hl

theorem exec_eos_errBlind (d : BitVec 2) : ErrBlind (exec (.eos d)) s :=
  .silent s.flush.closeStream fun o => congrArg Host.Outcome.next (congrArg State.closeStream (s.flush_withErr o))

/-- No command or token looks at the error registers, and it ends with at most one cause, never BADACC (R165, R168). -/
theorem exec_errBlind (i : Instr) : ErrBlind (exec i) s := by
  cases i with
  | nop => exact .silent s.complete fun _ => rfl
  | clear => exact .silent s.zeroFreq.dropTree.complete fun _ => rfl
  | build => exact exec_build_errBlind s
  | derive => exact exec_derive_errBlind s
  | serialize => exact exec_serialize_errBlind s
  | decode => exact s.decodeStart_errBlind false
  | decodeLim => exact s.decodeStart_errBlind true
  | illegalOp6 w => exact .failed s .illegal w nofun fun _ => rfl
  | illegalOp8 w => exact .failed s .illegal w nofun fun _ => rfl
  | illegalReserved w => exact .failed s .illegal w nofun fun _ => rfl
  | bit0 => exact s.bitToken_errBlind false
  | bit1 => exact s.bitToken_errBlind true
  | bad2 => exact .failed s .framing s.decBits nofun fun _ => rfl
  | bad3 => exact .failed s .framing s.decBits nofun fun _ => rfl
  | eos d => exact exec_eos_errBlind s d

end

/-! ### The statements -/

/-- Settles O8: around its own error registers a state is itself. -/
theorem atMostOneCause : Obligations.AtMostOneCause := by
  intro i s
  cases exec_errBlind s i with
  | silent u h => exact ⟨_, h s, Or.inl (.refl s)⟩
  | failed u c arg hc h =>
    exact ⟨_, h s, Or.inr ⟨c, arg, hc, (u.withErr s).fail_raised c arg, (u.withErr s).fail_completed c arg⟩⟩

/-- Settles O9: both states are one state around different error registers. -/
theorem errorsDoNotBlock : Obligations.ErrorsDoNotBlock := by
  intro i s s' hs
  have hs' : s' = s.withErr s' := hs
  cases exec_errBlind s i with
  | silent u h => exact ⟨_, _, h s, (congrArg (exec i) hs').trans (h s'), rfl⟩
  | failed u c arg hc h => exact ⟨_, _, h s, (congrArg (exec i) hs').trans (h s'), rfl⟩

end Sys2Proof.Machine
end

section
/-! SUPPORT. O10: which states have no step, and what the agents do once a run has ended. -/

namespace Sys2Proof.Machine

/-! ### Who has a step -/

/-- The engine has nothing to run: no command in progress, or a DECODE without a token (R94, R141). -/
theorem State.fetched_eq_none_iff {s : State} :
    s.fetched = none ↔ s.pend = none ∨ (s.decActive = true ∧ s.bitIn = []) := by
  cases hp : s.pend with
  | none => exact iff_of_true (by rw [State.fetched, hp]) (Or.inl rfl)
  | some w =>
    cases ha : s.decActive with
    | false => simp [State.fetched_of_command hp ha]
    | true => simp [State.fetched_of_decode hp ha]

/-- No master has a step exactly when every next access stalls (R192). -/
theorem State.readyMaster_eq_none_iff {s : State} :
    s.readyMaster = none ↔ ∀ m a, s.nextAccess m = some a → s.stalls a = true := by
  rw [State.readyMaster, List.find?_eq_none]
  refine ⟨fun h m a hn => ?_, fun h m _ hr => ?_⟩
  · have hm : m < s.masters.length := by
      obtain ⟨h0, hh, -⟩ := Option.bind_eq_some_iff.1 hn
      exact (List.getElem?_eq_some_iff.1 hh).1
    simpa [State.hostReady, hn] using h m (List.mem_range.2 hm)
  · cases hn : s.nextAccess m with
    | none => simp [State.hostReady, hn] at hr
    | some a => simp [State.hostReady, hn, h m a hn] at hr

theorem engineTurn_of_fetched_none {s : State} (h : s.fetched = none) : engineTurn s = .next s := by
  rw [engineTurn, h]

theorem engineTurn_next (s : State) : ∃ t, engineTurn s = .next t := by
  unfold engineTurn
  split
  · exact ⟨s, rfl⟩
  · exact exec_next _ _

theorem agentTurn_next (s : State) (a : Agent) : ∃ t, agentTurn s a = .next t := by
  cases a with
  | engine => exact engineTurn_next s
  | host m => exact ⟨_, rfl⟩
  | source => exact ⟨_, rfl⟩
  | symSink => exact ⟨_, rfl⟩
  | tblSink => exact ⟨_, rfl⟩
  | power => exact ⟨_, rfl⟩

/-! ### The stuck state (R194) -/

/-- With no turn given, nothing fetched and every access stalled, the source decides (log 9, 11). -/
theorem step_of_nobody {s : State} (ht : s.turns = []) (hf : s.fetched = none) (hm : s.readyMaster = none) :
    step s = if s.source ≠ [] then .next (sourceTurn s) else if s.busy then .fault .stuck else .next s := by
  rw [step, ht]
  simp only [idleTurn, hf, hm, Option.isSome_none, Bool.false_eq_true, if_false]

theorem step_of_hung {s : State} (h : Hung s) : step s = .fault .stuck := by
  obtain ⟨ht, hsource, hbusy, ha, hb, hstall⟩ := h
  rw [step_of_nobody ht (State.fetched_eq_none_iff.2 (Or.inr ⟨ha, hb⟩)) (State.readyMaster_eq_none_iff.2 hstall),
    if_neg (not_not.2 hsource), if_pos hbusy]

theorem step_of_not_hung {s : State} (h : ¬ Hung s) : ∃ t, step s = .next t := by
  cases ht : s.turns with
  | cons a rest =>
    rw [step_of_turns ht]
    exact agentTurn_next _ a
  | nil =>
    cases hf : s.fetched with
    | some e =>
      rw [step_of_idle ht (by rw [hf]; rfl)]
      exact engineTurn_next s
    | none =>
      cases hm : s.readyMaster with
      | some m => exact ⟨hostTurn m s, by simp [step, ht, idleTurn, hf, hm]⟩
      | none =>
        rw [step_of_nobody ht hf hm]
        by_cases hsource : s.source = []
        · have hbusy : s.busy ≠ true := fun hbusy => by
            have hp : s.pend ≠ none := Option.isSome_iff_ne_none.1 hbusy
            obtain ⟨ha, hb⟩ := (State.fetched_eq_none_iff.1 hf).resolve_left hp
            exact h ⟨ht, hsource, hbusy, ha, hb, State.readyMaster_eq_none_iff.1 hm⟩
          exact ⟨s, by rw [if_neg (not_not.2 hsource), if_neg hbusy]⟩
        · exact ⟨sourceTurn s, if_pos hsource⟩

/-! ### What the window shows does not lie outside the block -/

theorem State.locWord_withOutside (s o : State) (l : Loc) : (s.withOutside o).locWord l = s.locWord l := by
  cases l with
  | reg r => cases r <;> rfl
  | freq sym => rfl
  | node i link => rfl
  | code sym w => rfl

theorem State.window_withOutside (s o : State) : (s.withOutside o).observe.window = s.observe.window := by
  simp only [State.observe, funext (s.locWord_withOutside o)]

/-- The source writes BIT_IN and its own tokens alone (R67). -/
theorem sourceTurn_eq_withOutside (s : State) :
    sourceTurn s = s.withOutside (sourceTurn s) ∧ (sourceTurn s).masters = s.masters := by
  unfold sourceTurn
  split
  · exact ⟨rfl, rfl⟩
  · exact ⟨rfl, rfl⟩

/-! ### A run that has ended (R200) -/

section
variable {s : State} (h : s.runEnded = true)
include h

theorem State.fetched_of_runEnded : s.fetched = none :=
  State.fetched_eq_none_iff.2 (Or.inl (State.runEnded_iff.1 h).2)

theorem State.nextAccess_of_runEnded (m : Nat) : s.nextAccess m = none := by
  cases hm : s.masters[m]? with
  | none => rw [State.nextAccess, hm, Option.bind_none]
  | some h0 =>
    have htodo := (State.runEnded_iff.1 h).1 h0 (List.mem_of_getElem? hm)
    rw [State.nextAccess, hm, Option.bind_some, htodo, List.head?_nil]

/-- A run that has ended stays ended while its masters are the same and no command is in progress. -/
theorem State.runEnded_of_same {t : State} (hm : t.masters = s.masters) (hp : t.pend = none) : t.runEnded = true :=
  State.runEnded_iff.2 ⟨hm ▸ (State.runEnded_iff.1 h).1, hp⟩

/-- With no turn given only the source may still move (R178). -/
theorem step_of_runEnded_idle (ht : s.turns = []) : step s = .next (sourceTurn s) := by
  have hm : s.readyMaster = none :=
    State.readyMaster_eq_none_iff.2 fun m a hn => absurd (hn.symm.trans (State.nextAccess_of_runEnded h m)) nofun
  have hbusy : s.busy = false := by rw [State.busy, (State.runEnded_iff.1 h).2]; rfl
  rw [step_of_nobody ht (State.fetched_of_runEnded h) hm, hbusy]
  by_cases hsource : s.source = []
  · rw [if_neg (not_not.2 hsource), sourceTurn_nil hsource]
    rfl
  · exact if_pos hsource

/-- No agent but the power-on reset touches the block any more. -/
theorem agentTurn_of_runEnded {a : Agent} (ha : a ≠ .power) :
    ∃ o : State, agentTurn s a = .next (s.withOutside o) ∧ o.masters = s.masters := by
  cases a with
  | engine => exact ⟨s, engineTurn_of_fetched_none (State.fetched_of_runEnded h), rfl⟩
  | host m =>
    have hturn : hostTurn m s = s := by rw [hostTurn, State.nextAccess_of_runEnded h m]
    exact ⟨s, congrArg Host.Outcome.next hturn, rfl⟩
  | source =>
    obtain ⟨he, hm⟩ := sourceTurn_eq_withOutside s
    exact ⟨sourceTurn s, congrArg Host.Outcome.next he, hm⟩
  | symSink => exact ⟨symSinkTurn s, rfl, rfl⟩
  | tblSink => exact ⟨tblSinkTurn s, rfl, rfl⟩
  | power => exact absurd rfl ha

theorem step_of_runEnded (hturn : s.turns.head? ≠ some .power) :
    ∃ o : State, step s = .next (s.withOutside o) ∧ o.masters = s.masters := by
  cases ht : s.turns with
  | nil =>
    obtain ⟨he, hm⟩ := sourceTurn_eq_withOutside s
    exact ⟨sourceTurn s, (step_of_runEnded_idle h ht).trans (congrArg Host.Outcome.next he), hm⟩
  | cons a rest =>
    rw [step_of_turns ht]
    refine agentTurn_of_runEnded (s := { s with turns := rest })
      (State.runEnded_of_same h rfl (State.runEnded_iff.1 h).2) ?_
    rintro rfl
    exact hturn (by rw [ht]; rfl)

end

theorem step_of_power {s : State} {rest : List Agent} (ht : s.turns = .power :: rest) :
    step s = .next { s with turns := rest }.powerOn :=
  step_of_turns ht

/-- Settles O10: a state that is not hung has a next one; once the run has ended, a turn other than the power-on reset's
changes only what lies outside the block, and no master. -/
theorem onlyHungStops : Obligations.OnlyHungStops := by
  intro s
  refine ⟨fun r hr => ?_, ⟨fun hs => ?_, step_of_hung⟩, fun hend => ?_, fun ⟨hend, ht, hsource⟩ => ?_⟩
  · by_cases h : Hung s
    · exact absurd (hr.symm.trans (step_of_hung h)) nofun
    · obtain ⟨t, ht⟩ := step_of_not_hung h
      exact absurd (hr.symm.trans ht) nofun
  · by_contra h
    obtain ⟨t, ht⟩ := step_of_not_hung h
    exact absurd (hs.symm.trans ht) nofun
  · by_cases hpower : s.turns.head? = some .power
    · obtain ⟨rest, ht⟩ := List.head?_eq_some_iff.1 hpower
      exact ⟨_, step_of_power ht, State.runEnded_of_same hend rfl rfl, fun hne => absurd hpower hne⟩
    · obtain ⟨o, ho, hm⟩ := step_of_runEnded hend hpower
      exact ⟨s.withOutside o, ho, State.runEnded_of_same hend hm (State.runEnded_iff.1 hend).2,
        fun _ => s.window_withOutside o⟩
  · rw [step_of_runEnded_idle hend ht, sourceTurn_nil hsource]

end Sys2Proof.Machine
end

section
/-! SUPPORT. O43: which accesses stall while BUSY, range by range of the map. -/

namespace Sys2Proof.Machine

/-- A write that stalls names a writable location (R192, R55). -/
theorem Loc.writable_of_writeStalls {l : Loc} (h : l.writeStalls = true) : l.writable = true := by
  cases l with
  | reg r =>
    cases r with
    | cmd => rfl
    | _ => cases h
  | freq sym => rfl
  | node i link => cases h
  | code sym w => cases h

/-- An aligned access of 4 bytes stalls by the location at its offset alone. -/
theorem State.stalls_of_aligned (s : State) {a : Access} (hsize : a.size = 4) (h4 : a.off.toNat % 4 = 0) :
    s.stalls a = (s.busy && (locAt a.off.toNat).any (if a.isWrite then Loc.writeStalls else Loc.readStalls)) := by
  rw [State.stalls, Access.target_eq, if_pos ⟨hsize, h4⟩]
  cases locAt a.off.toNat with
  | none => exact (Bool.and_false _).symm
  | some l =>
    cases hr : a.isWrite with
    | false => rfl
    | true =>
      cases hw : l.writable with
      | true => simp [Option.filter, hw]
      | false =>
        have hl : l.writeStalls = false :=
          Bool.eq_false_iff.2 fun hl => Bool.eq_false_iff.1 hw (Loc.writable_of_writeStalls hl)
        simp [Option.filter, hw, hl]

theorem regAt_eq_none {k : Nat} (hk : 18 ≤ k) : regAt k = none := List.getElem?_eq_none hk

/-- CTRL, CMD and the result registers. -/
theorem regAt_readStalls (k : Nat) :
    ((regAt k).map Loc.reg).any Loc.readStalls = true ↔ k = 2 ∨ k = 4 ∨ (9 ≤ k ∧ k ≤ 13) := by
  by_cases hk : k < 18
  · revert k
    decide
  · rw [regAt_eq_none (Nat.le_of_not_lt hk)]
    exact iff_of_false nofun (by omega)

/-- CMD alone. -/
theorem regAt_writeStalls (k : Nat) : ((regAt k).map Loc.reg).any Loc.writeStalls = true ↔ k = 4 := by
  by_cases hk : k < 18
  · revert k
    decide
  · rw [regAt_eq_none (Nat.le_of_not_lt hk)]
    exact iff_of_false nofun (by omega)

section
variable {a : Nat} (h4 : a % 4 = 0)
include h4

theorem locAt_readStalls (ha : a < 0x8000) : (locAt a).any Loc.readStalls = true ↔
    a = 0x008 ∨ a = 0x010 ∨ (0x024 ≤ a ∧ a ≤ 0x034) ∨ (0x400 ≤ a ∧ a < 0x800) ∨ (0x2000 ≤ a ∧ a < 0x2FF8) ∨
      0x4000 ≤ a := by
  unfold locAt
  split_ifs with hreg hfreq hgap hnode hgap'
  · rw [regAt_readStalls]
    omega
  · exact iff_of_true rfl (by omega)
  · exact iff_of_false nofun (by omega)
  · exact iff_of_true rfl (by omega)
  · exact iff_of_false nofun (by omega)
  · exact iff_of_true rfl (by omega)

theorem locAt_writeStalls : (locAt a).any Loc.writeStalls = true ↔ a = 0x010 ∨ (0x400 ≤ a ∧ a < 0x800) := by
  unfold locAt
  split_ifs with hreg hfreq
  · rw [regAt_writeStalls]
    omega
  · exact iff_of_true rfl (by omega)
  all_goals exact iff_of_false nofun (by omega)

end

/-- Settles O43: BUSY, and the locations of the map whose read or write waits for it. -/
theorem stallRule : Obligations.StallRule := by
  rintro s off v a rfl h4
  rw [s.stalls_of_aligned (a := .read off 4) rfl h4, s.stalls_of_aligned (a := .write off 4 v) rfl h4,
    Bool.and_eq_true, Bool.and_eq_true]
  exact ⟨and_congr_right' (locAt_readStalls h4 off.isLt), and_congr_right' (locAt_writeStalls h4)⟩

end Sys2Proof.Machine
end

section
/-! SUPPORT. O51, O52, O60: the power-on reset, the reset values, and the invariants of the reset state. -/

namespace Sys2Proof.Machine

theorem State.readReg_powerOn (s : State) (r : Reg) : s.powerOn.readReg r = State.reset.readReg r := by
  rw [s.powerOn_eq_resetRegisters, State.readReg_resetRegisters]

/-- FREQ is drawn at the reset (R188). -/
theorem State.freq_powerOn (s : State) (sym : Byte) : s.powerOn.freq sym = Config.powerOnFreq (s.epoch + 1) sym :=
  if_pos (List.contains_iff_mem.2 (mem_allSymbols sym))

/-- Settles O51: the registers by `resetRegisters`, FREQ by the draw; NODE and CODE hold nothing valid. -/
theorem powerOnReset : Obligations.PowerOnReset := fun _ _ ht =>
  ⟨_, step_of_power ht, State.readReg_powerOn _, rfl, rfl, rfl, rfl, rfl, rfl, State.freq_powerOn _, fun _ => rfl, rfl, rfl,
    rfl, rfl⟩

/-- Settles O52: the table of R187, computed. -/
theorem resetValues : Obligations.ResetValues :=
  ⟨by decide, rfl, rfl, rfl, rfl, rfl, rfl⟩

theorem State.reset_errInv : ErrInv State.reset := ⟨iff_of_true rfl rfl, fun _ => rfl, by decide⟩

/-- No codes, no active DECODE, and RUN with LIMIT_HIT = 0. -/
theorem State.reset_controlInv : ControlInv State.reset := ⟨nofun, nofun, iff_of_false nofun nofun⟩

/-- The result registers are 0, and there is no tree to speak of. -/
theorem State.reset_treeInv : TreeInv State.reset := ⟨fun _ => ⟨rfl, rfl, rfl, rfl, rfl⟩, fun _ => rfl, nofun⟩

/-- Settles O60: with no tree, no codes and no DECODE active, what the invariants say of them is empty. -/
theorem resetMeetsInvariants : Obligations.ResetMeetsInvariants :=
  ⟨rfl, State.reset_errInv, State.reset_controlInv, State.reset_treeInv, nofun, nofun⟩

end Sys2Proof.Machine
end
